-- ==== Sys2Proof/Word.lean ====
section
/-! DEFINITION. The word types of the block and its byte storage (spec 00_scope.md R25, 20_memory.md R80 to R86). -/

namespace Sys2Proof

/-- An unsigned byte (00_scope.md R25). -/
abbrev Byte := BitVec 8

/-- A transaction word (30_encoding.md R110). -/
abbrev Word := BitVec 32

/-- One byte space of the block (20_memory.md R80): (address, byte) pairs, addresses strictly rising. -/
abbrev Mem := List Host.Cell

/-- A 16-bit operand field `A` (30_encoding.md R110). -/
abbrev Field16 := BitVec 16

end Sys2Proof
end

