-- ==== Sys2Proof/Config.lean ====
section
/-! DEFINITION. What an implementation fixes (00_scope.md R11 to R21) and the free values of the model. -/

namespace Sys2Proof

/-- A scan-code set (00_scope.md R29, 10_state.md R45). -/
inductive CodeSet where
  | set1
  | set2
  deriving DecidableEq, Repr

/-- A make code of one byte `(m)` or of two bytes `(p, m)`, `p` the prefix (00_scope.md R18, 30_encoding.md R126). -/
inductive MakeCode where
  | one (m : Byte)
  | two (p m : Byte)
  deriving DecidableEq, Repr

/-- One mapped cell of the make-code table `MAKE(set, row, col)` (00_scope.md R18). -/
structure MakeEntry where
  codes : CodeSet
  row  : Fin 8
  col  : Nat
  code : MakeCode
  deriving DecidableEq, Repr

/-- `SET2_EXT_BREAK_ORDER` (00_scope.md R19). -/
inductive BreakOrder where
  | doc
  | prefixFirst
  deriving DecidableEq, Repr

/-- The implementation parameters (00_scope.md R11 to R21). `SETTLE_DELAY` and `POLL_INTERVAL` (R17) are not
modelled: "no rule of this spec depends on their values". The byte constants' defaults are the spec's (R21). -/
structure Params where
  /-- `CAP_TX` (R11) -/
  capTx : Nat
  /-- `CAP_RX` (R11) -/
  capRx : Nat
  /-- `NCOL` (R14) -/
  ncol : Nat
  /-- `VALID_MASK[c]` for `c < NCOL` (R15) -/
  validMask : List Byte
  /-- `POLL_IDLE_LIMIT` (R16) -/
  pollIdleLimit : Nat
  /-- the mapped cells of `MAKE` (R18); a cell not listed is `NONE` -/
  make : List MakeEntry
  /-- `SET2_EXT_BREAK_ORDER`, default `DOC` (R19) -/
  breakOrder : BreakOrder := .doc
  /-- `REPOLL_AFTER_ARM`, default `false` (R20) -/
  repollAfterArm : Bool := false
  /-- `ACK` (R21) -/
  ack : Byte := 0xFA
  /-- `NAK` (R21) -/
  nak : Byte := 0xFE
  /-- `BAT_OK` (R21) -/
  batOk : Byte := 0xAA
  /-- `ECHO_RSP` (R21) -/
  echoRsp : Byte := 0xEE
  /-- `KBD_ID[0]` (R21) -/
  kbdId0 : Byte := 0xAB
  /-- `KBD_ID[1]` (R21) -/
  kbdId1 : Byte := 0x83
  /-- `SELF_TEST_OK` (R21) -/
  selfTestOk : Byte := 0x55
  deriving DecidableEq, Repr

/-- A ring capacity is "a power of two" with `2 <= CAP <= 65536` (00_scope.md R11). -/
def Params.capOk (cap : Nat) : Bool :=
  (List.range 16).any fun k => cap == 2 ^ (k + 1)

/-- Set 1 codes have bit 7 of the last byte clear (44_scancode_translate.md R343), and every listed cell is a
column of the matrix (00_scope.md R18). -/
def Params.entryOk (ncol : Nat) (e : MakeEntry) : Bool :=
  decide (e.col < ncol) &&
    match e.codes, e.code with
    | .set1, .one m => !m.getLsbD 7
    | .set1, .two _ m => !m.getLsbD 7
    | .set2, _ => true

/-- The parameter values the spec admits (00_scope.md R11 to R18). -/
def Params.wf (c : Params) : Bool :=
  Params.capOk c.capTx && Params.capOk c.capRx
    && decide (1 ≤ c.ncol) && decide (c.ncol ≤ 256)
    && decide (c.validMask.length = c.ncol)
    && decide (1 ≤ c.pollIdleLimit)
    && c.make.all (Params.entryOk c.ncol)

/-- The spec's example configuration CFG-A (95_test_vectors.md section 1). DESIGN CHOICE (log 4): the
configuration `State.reset` carries; no rule fixes one. -/
def Config.cfgA : Params :=
  { capTx := 4, capRx := 4, ncol := 2
    validMask := [0xFF, 0x03]
    pollIdleLimit := 2
    make :=
      [ ⟨.set1, 0, 0, .one 0x1E⟩, ⟨.set2, 0, 0, .one 0x1C⟩
      , ⟨.set1, 1, 0, .two 0xE0 0x48⟩, ⟨.set2, 1, 0, .two 0xE0 0x75⟩
      , ⟨.set1, 0, 1, .one 0x39⟩, ⟨.set2, 0, 1, .one 0x29⟩ ] }

/-- The free values `draw()` of one byte (00_scope.md R27), one for each draw (log 9). -/
opaque Config.freeByte : Nat → Byte

/-- The free choices between two outcomes (45_control.md R372, R380), one for each draw (log 10, log 11). -/
opaque Config.freeBit : Nat → Bool

/-- The free choices of the agent that steps next (00_scope.md R24), one for each draw (log 1). -/
opaque Config.freeNat : Nat → Nat

end Sys2Proof
end

