-- ==== Sys2Proof/Syntax.lean ====
section
/-! DEFINITION. The instructions: one constructor for each row of spec/opcode_table.json (30_encoding.md R110 to
R134), and the names the decoder and the scheduler use. -/

namespace Sys2Proof

/-- The operations of the block. The first 35 are transactions (level 1, 30_encoding.md R111 to R118), the last 25
are host bytes (level 2, R119 to R123). -/
inductive Instr where
  -- TX ring, unit 0x0 (30_encoding.md R112)
  | pushTx (b : Byte)
  | popTx
  | isEmptyTx
  | spaceTx
  | rdHeadTx
  | rdTailTx
  | wrHeadTx (i : Field16)
  | wrTailTx (i : Field16)
  | rdSlotTx (i : Field16)
  | wrSlotTx (i : Field16) (b : Byte)
  -- RX ring, unit 0x1 (R112)
  | pushRx (b : Byte)
  | popRx
  | isEmptyRx
  | spaceRx
  | rdHeadRx
  | rdTailRx
  | wrHeadRx (i : Field16)
  | wrTailRx (i : Field16)
  | rdSlotRx (i : Field16)
  | wrSlotRx (i : Field16) (b : Byte)
  -- TX front end, unit 0x2 (R114)
  | putc (b : Byte)
  | setModeRaw
  | setModeConsole
  -- control, unit 0x3 (R115)
  | maskRx
  | maskTx
  | unmaskRx
  | unmaskTx
  | waitInput
  | waitInputTimeout
  -- host ports, unit 0x4 (R116)
  | data (b : Byte)
  | cmd (b : Byte)
  -- environment inputs, unit 0x5 (R117)
  | rxArrive (b : Byte)
  | txReady
  | keySet (row : Fin 8) (col : Byte) (v : Bool)
  -- key-event injection, unit 0x6 (R118)
  | keyEvent (row : Fin 8) (col : Byte) (p : Bool)
  -- data-port command bytes in NORMAL (R120)
  | setleds
  | echo
  | scanset
  | getid
  | setrep
  | enable
  | disable
  | resend
  | reset
  | dnak (b : Byte)
  -- data-port argument bytes (R121)
  | scansetArg (b : Byte)
  | ledArg (b : Byte)
  | cmdbyteArg (b : Byte)
  | echoMouseArg (b : Byte)
  | sendToMouseArg (b : Byte)
  -- command-port bytes (R122)
  | rdRam (a : BitVec 5)
  | wrRam (a : BitVec 5)
  | disAux
  | enaAux
  | selfTest
  | disKbd
  | enaKbd
  | echoMouse
  | sendToMouse
  | cnak (b : Byte)
  deriving DecidableEq, Repr

/-- The translator's six states (10_state.md R48). -/
inductive DState where
  | normal
  | awaitingScancodeSet
  | awaitingLedByte
  | awaitingCommandByte
  | echoMouse
  | sendToMouse
  deriving DecidableEq, Repr

/-- The operations a data-port byte can be (30_encoding.md R120, R121). -/
inductive DataOp where
  | setleds
  | echo
  | scanset
  | getid
  | setrep
  | enable
  | disable
  | resend
  | reset
  | dnak (b : Byte)
  | scansetArg (b : Byte)
  | ledArg (b : Byte)
  | cmdbyteArg (b : Byte)
  | echoMouseArg (b : Byte)
  | sendToMouseArg (b : Byte)
  deriving DecidableEq, Repr

/-- The operations a command-port byte can be (30_encoding.md R122). -/
inductive CmdOp where
  | rdRam (a : BitVec 5)
  | wrRam (a : BitVec 5)
  | disAux
  | enaAux
  | selfTest
  | disKbd
  | enaKbd
  | echoMouse
  | sendToMouse
  | cnak (b : Byte)
  deriving DecidableEq, Repr

/-- Why a transaction word spells no operation (30_encoding.md R131). -/
inductive DecodeError where
  /-- `U` is 0x7 to 0xF -/
  | reservedUnit
  /-- `O` is not listed for its unit -/
  | reservedOperation
  /-- a field the operation does not use is non-zero -/
  | unusedField
  /-- `SET_MODE`, `MASK`, `UNMASK` or `WAIT_INPUT` has `B > 1` -/
  | badSelector
  /-- a `KEY_SET` or `KEY_EVENT` names a row `>= 8` -/
  | keyRow
  deriving DecidableEq, Repr

/-- Who takes a step: the seven agents of 00_scope.md R22, and the "test harness" that 30_encoding.md R111 names
as an issuer (log 2). -/
inductive Agent where
  | task
  | isrRx
  | isrTx
  | isrRow
  | scan
  | host
  | env
  | harness
  deriving DecidableEq, Repr

/-- The agent steps of 30_encoding.md R129, and the model's retry of a held WAIT_INPUT (45_control.md R372,
"retried when ev_input becomes 1"; log 12). -/
inductive AgentStep where
  | isrRx
  | isrTx
  | taskLf
  | taskWait
  | isrRow
  | scanWake
  | scanCol
  | scanEnd
  deriving DecidableEq, Repr

/-- One turn of the interleaving: an agent's, or a reset (00_scope.md R24, 70_reset_and_hazards.md R450; log 1,
log 18). -/
inductive Turn where
  | agent (a : Agent)
  | reset
  deriving DecidableEq, Repr

/-- A data-port operation as an instruction of the table. -/
def DataOp.toInstr : DataOp → Instr
  | .setleds => .setleds
  | .echo => .echo
  | .scanset => .scanset
  | .getid => .getid
  | .setrep => .setrep
  | .enable => .enable
  | .disable => .disable
  | .resend => .resend
  | .reset => .reset
  | .dnak b => .dnak b
  | .scansetArg b => .scansetArg b
  | .ledArg b => .ledArg b
  | .cmdbyteArg b => .cmdbyteArg b
  | .echoMouseArg b => .echoMouseArg b
  | .sendToMouseArg b => .sendToMouseArg b

/-- A command-port operation as an instruction of the table. -/
def CmdOp.toInstr : CmdOp → Instr
  | .rdRam a => .rdRam a
  | .wrRam a => .wrRam a
  | .disAux => .disAux
  | .enaAux => .enaAux
  | .selfTest => .selfTest
  | .disKbd => .disKbd
  | .enaKbd => .enaKbd
  | .echoMouse => .echoMouse
  | .sendToMouse => .sendToMouse
  | .cnak b => .cnak b

end Sys2Proof
end

