-- ==== Sys2Proof/WellFormed.lean ====
section
/-! DEFINITION. When a term of `Instr` is an operation the encoding can spell (30_encoding.md R117, R118, R120,
R122, R131). -/

namespace Sys2Proof

/-- The data-port command bytes that a row of their own matches in NORMAL (30_encoding.md R120). -/
def dataCommandBytes : List Byte := [0xED, 0xEE, 0xF0, 0xF2, 0xF3, 0xF4, 0xF5, 0xFE, 0xFF]

/-- The single-value command-port bytes with a row of their own (30_encoding.md R122). -/
def cmdCommandBytes : List Byte := [0xA7, 0xA8, 0xAA, 0xAD, 0xAE, 0xD3, 0xD4]

/-- `b` is a fallback byte of the data port in NORMAL (30_encoding.md R120 "any other"). -/
def isDnakByte (b : Byte) : Bool := !dataCommandBytes.contains b

/-- `b` is a fallback byte of the command port (30_encoding.md R122 "any other"): neither 0x20 to 0x3F, nor 0x60 to
0x7F, nor a listed value. -/
def isCnakByte (b : Byte) : Bool :=
  b.extractLsb' 5 3 != 1#3 && b.extractLsb' 5 3 != 3#3 && !cmdCommandBytes.contains b

/-- A well-formed instruction under configuration `c`: a key position inside the matrix (30_encoding.md R131), a
fallback byte that no other row matches (R134), and nothing else: an index operand outside the ring "is not a
decoding error" (R113). -/
def WellFormed (c : Params) : Instr → Bool
  | .keySet _ col _ => decide (col.toNat < c.ncol)
  | .keyEvent _ col _ => decide (col.toNat < c.ncol)
  | .dnak b => isDnakByte b
  | .cnak b => isCnakByte b
  | .pushTx _ => true
  | .popTx => true
  | .isEmptyTx => true
  | .spaceTx => true
  | .rdHeadTx => true
  | .rdTailTx => true
  | .wrHeadTx _ => true
  | .wrTailTx _ => true
  | .rdSlotTx _ => true
  | .wrSlotTx _ _ => true
  | .pushRx _ => true
  | .popRx => true
  | .isEmptyRx => true
  | .spaceRx => true
  | .rdHeadRx => true
  | .rdTailRx => true
  | .wrHeadRx _ => true
  | .wrTailRx _ => true
  | .rdSlotRx _ => true
  | .wrSlotRx _ _ => true
  | .putc _ => true
  | .setModeRaw => true
  | .setModeConsole => true
  | .maskRx => true
  | .maskTx => true
  | .unmaskRx => true
  | .unmaskTx => true
  | .waitInput => true
  | .waitInputTimeout => true
  | .data _ => true
  | .cmd _ => true
  | .rxArrive _ => true
  | .txReady => true
  | .setleds => true
  | .echo => true
  | .scanset => true
  | .getid => true
  | .setrep => true
  | .enable => true
  | .disable => true
  | .resend => true
  | .reset => true
  | .scansetArg _ => true
  | .ledArg _ => true
  | .cmdbyteArg _ => true
  | .echoMouseArg _ => true
  | .sendToMouseArg _ => true
  | .rdRam _ => true
  | .wrRam _ => true
  | .disAux => true
  | .enaAux => true
  | .selfTest => true
  | .disKbd => true
  | .enaKbd => true
  | .echoMouse => true
  | .sendToMouse => true

end Sys2Proof
end

