-- ==== Sys2Proof/Decode.lean ====
section
/-! DEFINITION. The decoder of transaction words (30_encoding.md R110 to R118, R131) and of host bytes (R119 to R123),
and the encoder. Every word either decodes or is rejected by name; every host byte decodes (R132). -/

namespace Sys2Proof

/-! ## Fields of a transaction word (R110) -/

/-- `U = w[31:28]` -/
def unitField (w : Word) : BitVec 4 := w.extractLsb' 28 4

/-- `O = w[27:24]` -/
def opField (w : Word) : BitVec 4 := w.extractLsb' 24 4

/-- `A = w[23:8]` -/
def aField (w : Word) : Field16 := w.extractLsb' 8 16

/-- `B = w[7:0]` -/
def bField (w : Word) : Byte := w.extractLsb' 0 8

/-- The word with fields `U`, `O`, `A`, `B` (R110). -/
def mkWord (u o : BitVec 4) (a : Field16) (b : Byte) : Word :=
  u.setWidth 32 <<< 28 ||| o.setWidth 32 <<< 24 ||| a.setWidth 32 <<< 8 ||| b.setWidth 32

/-- Who issues a word: the issuer of its unit (R111). Unit 0x6 belongs to "TASK or test harness" and units 0x7 to
0xF to nobody: the model gives both to the harness's turns (log 2). -/
def issuerOf (w : Word) : Agent :=
  match (unitField w).toNat with
  | 0 => .task
  | 1 => .task
  | 2 => .task
  | 3 => .task
  | 4 => .host
  | 5 => .env
  | _ => .harness

/-! ## Level 1: decoding a transaction word -/

/-- An operation that uses no field: `A` and `B` must be zero (R110). -/
def usesNone (a : Field16) (b : Byte) (i : Instr) : Except DecodeError Instr :=
  if a = 0 ∧ b = 0 then .ok i else .error .unusedField

/-- An operation that uses `B` alone: `A` must be zero (R110). -/
def usesB (a : Field16) (i : Instr) : Except DecodeError Instr :=
  if a = 0 then .ok i else .error .unusedField

/-- An operation that uses `A` alone: `B` must be zero (R110). -/
def usesA (b : Byte) (i : Instr) : Except DecodeError Instr :=
  if b = 0 then .ok i else .error .unusedField

/-- An operation with a selector in `B`: `A` must be zero, `B` 0 or 1 (R114, R115, R131). -/
def selects (a : Field16) (b : Byte) (i0 i1 : Instr) : Except DecodeError Instr :=
  if a = 0 then
    if b = 0 then .ok i0 else if b = 1 then .ok i1 else .error .badSelector
  else .error .unusedField

/-- Ring operations of unit 0x0 (R112). -/
def decodeTxRing (o : BitVec 4) (a : Field16) (b : Byte) : Except DecodeError Instr :=
  match o.toNat with
  | 0 => usesB a (.pushTx b)
  | 1 => usesNone a b .popTx
  | 2 => usesNone a b .isEmptyTx
  | 3 => usesNone a b .spaceTx
  | 4 => usesNone a b .rdHeadTx
  | 5 => usesNone a b .rdTailTx
  | 6 => usesA b (.wrHeadTx a)
  | 7 => usesA b (.wrTailTx a)
  | 8 => usesA b (.rdSlotTx a)
  | 9 => .ok (.wrSlotTx a b)
  | _ => .error .reservedOperation

/-- Ring operations of unit 0x1 (R112). -/
def decodeRxRing (o : BitVec 4) (a : Field16) (b : Byte) : Except DecodeError Instr :=
  match o.toNat with
  | 0 => usesB a (.pushRx b)
  | 1 => usesNone a b .popRx
  | 2 => usesNone a b .isEmptyRx
  | 3 => usesNone a b .spaceRx
  | 4 => usesNone a b .rdHeadRx
  | 5 => usesNone a b .rdTailRx
  | 6 => usesA b (.wrHeadRx a)
  | 7 => usesA b (.wrTailRx a)
  | 8 => usesA b (.rdSlotRx a)
  | 9 => .ok (.wrSlotRx a b)
  | _ => .error .reservedOperation

/-- TX front-end operations (R114). -/
def decodeFrontEnd (o : BitVec 4) (a : Field16) (b : Byte) : Except DecodeError Instr :=
  match o.toNat with
  | 0 => usesB a (.putc b)
  | 1 => selects a b .setModeRaw .setModeConsole
  | _ => .error .reservedOperation

/-- Control operations (R115). -/
def decodeControl (o : BitVec 4) (a : Field16) (b : Byte) : Except DecodeError Instr :=
  match o.toNat with
  | 0 => selects a b .maskRx .maskTx
  | 1 => selects a b .unmaskRx .unmaskTx
  | 2 => selects a b .waitInput .waitInputTimeout
  | _ => .error .reservedOperation

/-- Host-port operations (R116). -/
def decodeHostPort (o : BitVec 4) (a : Field16) (b : Byte) : Except DecodeError Instr :=
  match o.toNat with
  | 0 => usesB a (.data b)
  | 1 => usesB a (.cmd b)
  | _ => .error .reservedOperation

/-- The operands of KEY_SET and KEY_EVENT (R117, R118): column `A[15:8]`, row `A[7:0]`, value `B[0]`, `B[7:1]` zero. A
row at or above 8 is refused here; a column at or above `NCOL` is refused by value when the operation runs (R131;
log 17). -/
def keyOperands (a : Field16) (b : Byte) (mk : Fin 8 → Byte → Bool → Instr) : Except DecodeError Instr :=
  if b.extractLsb' 1 7 = 0 then
    if h : (a.extractLsb' 0 8).toNat < 8 then .ok (mk ⟨(a.extractLsb' 0 8).toNat, h⟩ (a.extractLsb' 8 8) (b.getLsbD 0))
    else .error .keyRow
  else .error .unusedField

/-- Environment inputs (R117). -/
def decodeEnv (o : BitVec 4) (a : Field16) (b : Byte) : Except DecodeError Instr :=
  match o.toNat with
  | 0 => usesB a (.rxArrive b)
  | 1 => usesNone a b .txReady
  | 2 => keyOperands a b .keySet
  | _ => .error .reservedOperation

/-- Key-event injection (R118). -/
def decodeInject (o : BitVec 4) (a : Field16) (b : Byte) : Except DecodeError Instr :=
  match o.toNat with
  | 0 => keyOperands a b .keyEvent
  | _ => .error .reservedOperation

/-- The transaction a word spells, or why it spells none (R111, R131). -/
def decodeWord (w : Word) : Except DecodeError Instr :=
  match (unitField w).toNat with
  | 0 => decodeTxRing (opField w) (aField w) (bField w)
  | 1 => decodeRxRing (opField w) (aField w) (bField w)
  | 2 => decodeFrontEnd (opField w) (aField w) (bField w)
  | 3 => decodeControl (opField w) (aField w) (bField w)
  | 4 => decodeHostPort (opField w) (aField w) (bField w)
  | 5 => decodeEnv (opField w) (aField w) (bField w)
  | 6 => decodeInject (opField w) (aField w) (bField w)
  | _ => .error .reservedUnit

/-! ## Level 2: decoding a host byte -/

/-- A data-port byte in NORMAL (R120). -/
def decodeDataCommand (b : Byte) : DataOp :=
  if b = 0xED then .setleds
  else if b = 0xEE then .echo
  else if b = 0xF0 then .scanset
  else if b = 0xF2 then .getid
  else if b = 0xF3 then .setrep
  else if b = 0xF4 then .enable
  else if b = 0xF5 then .disable
  else if b = 0xFE then .resend
  else if b = 0xFF then .reset
  else .dnak b

/-- A data-port byte in the context of `dstate` (R119 to R121). -/
def decodeData (d : DState) (b : Byte) : DataOp :=
  match d with
  | .normal => decodeDataCommand b
  | .awaitingScancodeSet => .scansetArg b
  | .awaitingLedByte => .ledArg b
  | .awaitingCommandByte => .cmdbyteArg b
  | .echoMouse => .echoMouseArg b
  | .sendToMouse => .sendToMouseArg b

/-- A command-port byte, whatever `dstate` is (R119, R122, R123). -/
def decodeCmd (b : Byte) : CmdOp :=
  if b.extractLsb' 5 3 = 1 then .rdRam (b.extractLsb' 0 5)
  else if b.extractLsb' 5 3 = 3 then .wrRam (b.extractLsb' 0 5)
  else if b = 0xA7 then .disAux
  else if b = 0xA8 then .enaAux
  else if b = 0xAA then .selfTest
  else if b = 0xAD then .disKbd
  else if b = 0xAE then .enaKbd
  else if b = 0xD3 then .echoMouse
  else if b = 0xD4 then .sendToMouse
  else .cnak b

/-- What a word stands for in the context of `dstate`: a DATA or CMD word is the level-2 instruction its byte decodes
to (R119), any other word its transaction. -/
def decodeIn (d : DState) (w : Word) : Except DecodeError Instr :=
  match decodeWord w with
  | .ok (.data b) => .ok (decodeData d b).toInstr
  | .ok (.cmd b) => .ok (decodeCmd b).toInstr
  | r => r

/-! ## The encoder -/

/-- The operand fields of a key position (R117, R118). -/
def keyA (row : Fin 8) (col : Byte) : Field16 := col.setWidth 16 <<< 8 ||| BitVec.ofNat 16 row.val

/-- The value field of a key position (R117, R118). -/
def keyB (v : Bool) : Byte := if v then 1 else 0

/-- The command-port byte of RD_RAM (`sel` 1) and WR_RAM (`sel` 3) at address `a` (R123). -/
def ramByte (sel : BitVec 3) (a : BitVec 5) : Byte := sel.setWidth 8 <<< 5 ||| a.setWidth 8

/-- The DATA word of a host byte (R116). -/
def dataWord (b : Byte) : Word := mkWord 4 0 0 b

/-- The CMD word of a host byte (R116). -/
def cmdWord (b : Byte) : Word := mkWord 4 1 0 b

/-- The transaction word of an instruction (R110 to R118); a host-byte instruction's is the DATA or CMD word that
carries its byte (R120 to R123). -/
def encode : Instr → Word
  | .pushTx b => mkWord 0 0 0 b
  | .popTx => mkWord 0 1 0 0
  | .isEmptyTx => mkWord 0 2 0 0
  | .spaceTx => mkWord 0 3 0 0
  | .rdHeadTx => mkWord 0 4 0 0
  | .rdTailTx => mkWord 0 5 0 0
  | .wrHeadTx i => mkWord 0 6 i 0
  | .wrTailTx i => mkWord 0 7 i 0
  | .rdSlotTx i => mkWord 0 8 i 0
  | .wrSlotTx i b => mkWord 0 9 i b
  | .pushRx b => mkWord 1 0 0 b
  | .popRx => mkWord 1 1 0 0
  | .isEmptyRx => mkWord 1 2 0 0
  | .spaceRx => mkWord 1 3 0 0
  | .rdHeadRx => mkWord 1 4 0 0
  | .rdTailRx => mkWord 1 5 0 0
  | .wrHeadRx i => mkWord 1 6 i 0
  | .wrTailRx i => mkWord 1 7 i 0
  | .rdSlotRx i => mkWord 1 8 i 0
  | .wrSlotRx i b => mkWord 1 9 i b
  | .putc b => mkWord 2 0 0 b
  | .setModeRaw => mkWord 2 1 0 0
  | .setModeConsole => mkWord 2 1 0 1
  | .maskRx => mkWord 3 0 0 0
  | .maskTx => mkWord 3 0 0 1
  | .unmaskRx => mkWord 3 1 0 0
  | .unmaskTx => mkWord 3 1 0 1
  | .waitInput => mkWord 3 2 0 0
  | .waitInputTimeout => mkWord 3 2 0 1
  | .data b => dataWord b
  | .cmd b => cmdWord b
  | .rxArrive b => mkWord 5 0 0 b
  | .txReady => mkWord 5 1 0 0
  | .keySet row col v => mkWord 5 2 (keyA row col) (keyB v)
  | .keyEvent row col p => mkWord 6 0 (keyA row col) (keyB p)
  | .setleds => dataWord 0xED
  | .echo => dataWord 0xEE
  | .scanset => dataWord 0xF0
  | .getid => dataWord 0xF2
  | .setrep => dataWord 0xF3
  | .enable => dataWord 0xF4
  | .disable => dataWord 0xF5
  | .resend => dataWord 0xFE
  | .reset => dataWord 0xFF
  | .dnak b => dataWord b
  | .scansetArg b => dataWord b
  | .ledArg b => dataWord b
  | .cmdbyteArg b => dataWord b
  | .echoMouseArg b => dataWord b
  | .sendToMouseArg b => dataWord b
  | .rdRam a => cmdWord (ramByte 1 a)
  | .wrRam a => cmdWord (ramByte 3 a)
  | .disAux => cmdWord 0xA7
  | .enaAux => cmdWord 0xA8
  | .selfTest => cmdWord 0xAA
  | .disKbd => cmdWord 0xAD
  | .enaKbd => cmdWord 0xAE
  | .echoMouse => cmdWord 0xD3
  | .sendToMouse => cmdWord 0xD4
  | .cnak b => cmdWord b

/-- `i` is a transaction: a row of format XW32 in spec/opcode_table.json, not a host byte (R134). -/
def isTransaction : Instr → Bool
  | .setleds | .echo | .scanset | .getid | .setrep | .enable | .disable | .resend | .reset => false
  | .dnak _ | .scansetArg _ | .ledArg _ | .cmdbyteArg _ | .echoMouseArg _ | .sendToMouseArg _ => false
  | .rdRam _ | .wrRam _ | .disAux | .enaAux | .selfTest | .disKbd | .enaKbd | .echoMouse | .sendToMouse | .cnak _ => false
  | .pushTx _ | .popTx | .isEmptyTx | .spaceTx | .rdHeadTx | .rdTailTx | .wrHeadTx _ | .wrTailTx _ | .rdSlotTx _ | .wrSlotTx _ _ => true
  | .pushRx _ | .popRx | .isEmptyRx | .spaceRx | .rdHeadRx | .rdTailRx | .wrHeadRx _ | .wrTailRx _ | .rdSlotRx _ | .wrSlotRx _ _ => true
  | .putc _ | .setModeRaw | .setModeConsole | .maskRx | .maskTx | .unmaskRx | .unmaskTx | .waitInput | .waitInputTimeout => true
  | .data _ | .cmd _ | .rxArrive _ | .txReady | .keySet _ _ _ | .keyEvent _ _ _ => true

/-- The `state` column of a host-byte row of spec/opcode_table.json: the `dstate` its byte is decoded in, or `none` for
"any" (R134). A transaction has no such column. -/
def tableState : Instr → Option DState
  | .setleds | .echo | .scanset | .getid | .setrep | .enable | .disable | .resend | .reset | .dnak _ => some .normal
  | .scansetArg _ => some .awaitingScancodeSet
  | .ledArg _ => some .awaitingLedByte
  | .cmdbyteArg _ => some .awaitingCommandByte
  | .echoMouseArg _ => some .echoMouse
  | .sendToMouseArg _ => some .sendToMouse
  | .rdRam _ | .wrRam _ | .disAux | .enaAux | .selfTest | .disKbd | .enaKbd | .echoMouse | .sendToMouse | .cnak _ => none
  | .pushTx _ | .popTx | .isEmptyTx | .spaceTx | .rdHeadTx | .rdTailTx | .wrHeadTx _ | .wrTailTx _ | .rdSlotTx _ | .wrSlotTx _ _ => none
  | .pushRx _ | .popRx | .isEmptyRx | .spaceRx | .rdHeadRx | .rdTailRx | .wrHeadRx _ | .wrTailRx _ | .rdSlotRx _ | .wrSlotRx _ _ => none
  | .putc _ | .setModeRaw | .setModeConsole | .maskRx | .maskTx | .unmaskRx | .unmaskTx | .waitInput | .waitInputTimeout => none
  | .data _ | .cmd _ | .rxArrive _ | .txReady | .keySet _ _ _ | .keyEvent _ _ _ => none

/-- A row of format XW32 in spec/opcode_table.json: the word's fixed bits. -/
structure WordRow where
  bits : Word
  mask : Word
  deriving DecidableEq, Repr

/-- The 35 rows of format XW32 of spec/opcode_table.json, in the table's order. -/
def wordRows : List WordRow :=
  [ ⟨0x00000000, 0xFFFFFF00⟩, ⟨0x01000000, 0xFFFFFFFF⟩, ⟨0x02000000, 0xFFFFFFFF⟩, ⟨0x03000000, 0xFFFFFFFF⟩
  , ⟨0x04000000, 0xFFFFFFFF⟩, ⟨0x05000000, 0xFFFFFFFF⟩, ⟨0x06000000, 0xFF0000FF⟩, ⟨0x07000000, 0xFF0000FF⟩
  , ⟨0x08000000, 0xFF0000FF⟩, ⟨0x09000000, 0xFF000000⟩ ] ++
  [ ⟨0x10000000, 0xFFFFFF00⟩, ⟨0x11000000, 0xFFFFFFFF⟩, ⟨0x12000000, 0xFFFFFFFF⟩, ⟨0x13000000, 0xFFFFFFFF⟩
  , ⟨0x14000000, 0xFFFFFFFF⟩, ⟨0x15000000, 0xFFFFFFFF⟩, ⟨0x16000000, 0xFF0000FF⟩, ⟨0x17000000, 0xFF0000FF⟩
  , ⟨0x18000000, 0xFF0000FF⟩, ⟨0x19000000, 0xFF000000⟩ ] ++
  [ ⟨0x20000000, 0xFFFFFF00⟩, ⟨0x21000000, 0xFFFFFFFF⟩, ⟨0x21000001, 0xFFFFFFFF⟩, ⟨0x30000000, 0xFFFFFFFF⟩
  , ⟨0x30000001, 0xFFFFFFFF⟩, ⟨0x31000000, 0xFFFFFFFF⟩, ⟨0x31000001, 0xFFFFFFFF⟩, ⟨0x32000000, 0xFFFFFFFF⟩
  , ⟨0x32000001, 0xFFFFFFFF⟩, ⟨0x40000000, 0xFFFFFF00⟩, ⟨0x41000000, 0xFFFFFF00⟩, ⟨0x50000000, 0xFFFFFF00⟩
  , ⟨0x51000000, 0xFFFFFFFF⟩, ⟨0x52000000, 0xFF0000FE⟩, ⟨0x60000000, 0xFF0000FE⟩ ]

/-! ## The host's reading of a table word -/

/-- `b` has a row of its own on the command port (R122). -/
def isCmdRowByte (b : Byte) : Bool := !isCnakByte b

/-- The instruction of a row of spec/opcode_table.json: a row of 32 bits is a transaction word, a row of 8 bits a host
byte. A host byte's row names a port that its bits do not: a byte with a command-port row of its own is read on the
command port, any other on the data port in NORMAL (no byte has a row of its own on both; log 22). -/
def decodeTableWord (nbits w : Nat) : Option Instr :=
  if nbits ≤ 8 then
    if isCmdRowByte (BitVec.ofNat 8 w) then some (decodeCmd (BitVec.ofNat 8 w)).toInstr
    else some (decodeData .normal (BitVec.ofNat 8 w)).toInstr
  else
    match decodeWord (BitVec.ofNat 32 w) with
    | .ok i => some i
    | .error _ => none

/-- The transaction word that presents a table word to the block: itself, or the CMD or DATA word of a host byte
(R116; log 22). -/
def tableTransaction (nbits w : Nat) : Word :=
  if nbits ≤ 8 then
    if isCmdRowByte (BitVec.ofNat 8 w) then cmdWord (BitVec.ofNat 8 w) else dataWord (BitVec.ofNat 8 w)
  else BitVec.ofNat 32 w

end Sys2Proof
end

