-- ==== Sys2Proof/Machine/State.lean ====
section
/-! DEFINITION. The block's state (spec 10_state.md), its faults and refusals, and the state after reset
(70_reset_and_hazards.md R450). -/

namespace Sys2Proof.Machine

/-- The two rings (00_scope.md R2). -/
inductive RingId where
  | tx
  | rx
  deriving DecidableEq, Repr

/-- One ring (10_state.md R31, R32). `data` lists the slots that a write has reached since reset; a slot it does not
list was never written, and a read of it is a free value (log 9, log 19). -/
structure Ring where
  /-- `ring[r].head`, "next write index" (R31) -/
  head : Nat
  /-- `ring[r].tail`, "next read index" (R31) -/
  tail : Nat
  /-- `ring[r].data` (R32) -/
  data : Mem
  deriving DecidableEq, Repr

/-- `tx_mode` (10_state.md R36). -/
inductive TxMode where
  | raw
  | console
  deriving DecidableEq, Repr

/-- The TX front end (10_state.md R36, R37). -/
structure FrontEnd where
  /-- `tx_mode` (R36) -/
  mode : TxMode
  /-- `txf_lf_pending` (R37) -/
  lfPending : Bool
  /-- `txf_ok` (R37) -/
  ok : Bool
  deriving DecidableEq, Repr

/-- The translator (10_state.md R42 to R50). -/
structure Kbc where
  /-- `ram[0 .. 31]` (R42, R47): an address not listed reads 0 -/
  ram : Mem
  /-- `kb_enabled` (R44) -/
  enabled : Bool
  /-- `code_set` (R45) -/
  codeSet : CodeSet
  /-- `dstate` (R48) -/
  dstate : DState
  /-- `ram_addr` (R49) -/
  ramAddr : BitVec 5
  /-- `resend_len` (R50) -/
  resendLen : Nat
  /-- `resend_buf[0 .. 2]` (R50) -/
  resendBuf : Vector Byte 3
  deriving DecidableEq, Repr

/-- `scan_state` (10_state.md R52). -/
inductive ScanState where
  | waitingForInterrupt
  | polling
  deriving DecidableEq, Repr

/-- `col_drive` (10_state.md R53, 41_matrix_scanner.md R200). -/
inductive ColDrive where
  | col (c : Nat)
  | assertAll
  | tristateAll
  deriving DecidableEq, Repr

/-- The scanner (10_state.md R41, R51 to R54). -/
structure Scanner where
  /-- `prev[0 .. NCOL-1]` (R51): a column not listed reads 0 -/
  prev : Mem
  /-- `scan_state` (R52) -/
  state : ScanState
  /-- `scan_col` (R52) -/
  col : Nat
  /-- `idle_count` (R52) -/
  idle : Nat
  /-- `col_drive` (R53) -/
  drive : ColDrive
  /-- `rows_at_arm` (R54) -/
  rowsAtArm : Byte
  /-- `row_irq_en` (R41) -/
  irqEn : Bool
  /-- `row_irq_pending` (R54) -/
  irqPending : Bool
  deriving DecidableEq, Repr

/-- The character transport's interface (10_state.md R56). -/
structure Transport where
  /-- `rx_pending` -/
  rxPending : Bool
  /-- `rx_byte` -/
  rxByte : Byte
  /-- `tx_ready` -/
  txReady : Bool
  deriving DecidableEq, Repr

/-- The channels of `host_out` (10_state.md R66). -/
inductive Channel where
  | kbd
  | aux
  deriving DecidableEq, Repr

/-- The control events (10_state.md R68). -/
inductive CtlEvent where
  | kbEnable (v : Bool)
  | kbdIrqEnable (v : Bool)
  deriving DecidableEq, Repr

/-- The status of a key event (44_scancode_translate.md R348). -/
inductive KeyStatus where
  | ok
  | unimplemented
  | droppedDisabled
  deriving DecidableEq, Repr

/-- One record of `edge_log` (10_state.md R70). -/
structure Edge where
  row : Fin 8
  col : Nat
  pressed : Bool
  status : KeyStatus
  deriving DecidableEq, Repr

/-- The output streams and observation records (10_state.md R66 to R70). -/
structure Streams where
  /-- `host_out` (R66) -/
  host : List (Channel × Byte)
  /-- `aux_out` (R67) -/
  aux : List Byte
  /-- `ctl_events` (R68) -/
  ctl : List CtlEvent
  /-- `tx_wire` (R69) -/
  wire : List Byte
  /-- `edge_log` (R70) -/
  edges : List Edge
  /-- `rx_dropped` (R70) -/
  rxDropped : Nat
  deriving DecidableEq, Repr

/-- The value a transaction returns to its issuer (10_state.md R39, R71). -/
inductive Ret where
  | unit
  /-- PUSH, PUTC, IS_EMPTY -/
  | bool (v : Bool)
  /-- POP: `some b` or `none` -/
  | popped (b : Option Byte)
  /-- SPACE -/
  | count (n : Nat)
  /-- RD_HEAD, RD_TAIL -/
  | index (i : Nat)
  /-- RD_SLOT -/
  | byte (b : Byte)
  /-- WAIT_INPUT: `EVENT` -/
  | event
  /-- WAIT_INPUT: `TIMEOUT` -/
  | timeout
  /-- KEY_EVENT -/
  | status (k : KeyStatus)
  deriving DecidableEq, Repr

/-- The fault codes (60_exceptions.md R401 to R403). -/
inductive FaultCode where
  /-- code 1 -/
  | indexBounds
  /-- code 2 -/
  | ownership
  /-- code 3 -/
  | invariant
  deriving DecidableEq, Repr

/-- The `fault` register when it is not `NONE` (10_state.md R58). -/
structure FaultRecord where
  code : FaultCode
  word : Word
  deriving DecidableEq, Repr

/-- The whole state. The fields from `ret` on are the model's own (log 1, log 2, log 9, log 12, log 13). -/
structure State where
  /-- the implementation parameters (00_scope.md R11 to R21; log 4) -/
  cfg : Params
  /-- ring TX (10_state.md R31, R32) -/
  tx : Ring
  /-- ring RX (R31, R32) -/
  rx : Ring
  /-- the TX front end (R36, R37) -/
  front : FrontEnd
  /-- `mask[RX]` (R40) -/
  maskRx : Bool
  /-- `mask[TX]` (R40) -/
  maskTx : Bool
  /-- the translator (R42 to R50) -/
  kbc : Kbc
  /-- the scanner (R41, R51 to R54) -/
  scan : Scanner
  /-- `ev_input` (R55) -/
  evInput : Bool
  /-- `ev_kbwake` (R55) -/
  evKbwake : Bool
  /-- the character transport (R56) -/
  port : Transport
  /-- `keys[row][col]` (R57), one byte per column, bit `r` the switch of row `r`; a column not listed is all open -/
  keys : Mem
  /-- `fault` (R58) -/
  fault : Option FaultRecord
  /-- the output streams and observation records (R66 to R70) -/
  out : Streams
  /-- the value the last transaction returned (R71), `none` while it is still in progress -/
  ret : Option Ret
  /-- a WAIT_INPUT in progress, and whether it has a timeout (45_control.md R372) -/
  wait : Option Bool
  /-- the transactions still to be issued, each issuer's in their order (30_encoding.md R110, R111) -/
  inputs : List Word
  /-- the turns to be taken next (00_scope.md R24) -/
  turns : List Turn
  /-- how many free values have been drawn -/
  draws : Nat
  deriving DecidableEq, Repr

/-- Why the machine stops. -/
inductive Fault where
  /-- Raised by `step` alone, when an agent's turn comes and `fault` is set: "After it no agent takes a step"
  (60_exceptions.md R400, 10_state.md R58). Safe: the spec stops here too (log 14). -/
  | halted (f : FaultRecord)
  deriving DecidableEq, Repr

/-- Why a word has no meaning. -/
inductive Refusal where
  /-- Raised by an arm of `exec` that has no meaning yet. Safe: nothing is claimed of the instruction. -/
  | notModelled (mnemonic : String)
  /-- Raised by `step` when a word spells no operation (30_encoding.md R131, 60_exceptions.md R404). Safe: the spec
  refuses it too. -/
  | notAnOperation (e : DecodeError)
  /-- Raised by KEY_SET and KEY_EVENT for a column at or above `NCOL`, "refused by value" (30_encoding.md R117, R118,
  R131; log 17). Safe: the spec refuses it too. -/
  | keyColumn
  deriving DecidableEq, Repr

/-- The reset values of R450 over configuration `c` and key matrix `keys`, which reset does not change. The values of
`rx_byte`, `rows_at_arm` and `resend_buf` are DESIGN CHOICES (log 6, log 7, log 8), as are those of the model's own
fields (log 1, log 2, log 9, log 12, log 13). -/
def State.initial (c : Params) (keys : Mem) : State :=
  { cfg := c
    tx := { head := 0, tail := 0, data := [] }
    rx := { head := 0, tail := 0, data := [] }
    front := { mode := .console, lfPending := false, ok := false }
    maskRx := false
    maskTx := false
    kbc :=
      { ram := [(0, 0x70)], enabled := false, codeSet := .set2, dstate := .normal, ramAddr := 0
        resendLen := 0, resendBuf := Vector.replicate 3 0 }
    scan :=
      { prev := [], state := .polling, col := 0, idle := 0, drive := .tristateAll
        rowsAtArm := 0, irqEn := false, irqPending := false }
    evInput := false
    evKbwake := false
    port := { rxPending := false, rxByte := 0, txReady := true }
    keys := keys
    fault := none
    out := { host := [], aux := [], ctl := [], wire := [], edges := [], rxDropped := 0 }
    ret := none
    wait := none
    inputs := []
    turns := []
    draws := 0 }

/-- The machine right after reset (R450), with the spec's example configuration CFG-A (log 4) and no key closed
(log 5). -/
def State.reset : State := State.initial Config.cfgA []

end Sys2Proof.Machine
end

