-- ==== Sys2Proof/Machine/Flags.lean ====
section
/-! DEFINITION. The block has no condition codes (10_state.md R39). This file holds the bits that stand in for flags:
the derived quantities of a ring (R34), the named bits of the controller command byte (R42, R46) and the byte/bit
helpers they use. -/

namespace Sys2Proof.Machine

/-! ## Derived ring quantities (10_state.md R34), indices below `cap` -/

/-- `count(r) = (head - tail) mod CAP` -/
def ringCount (cap : Nat) (r : Ring) : Nat := (r.head + cap - r.tail) % cap

/-- `empty(r)` iff `head == tail` -/
def ringEmpty (r : Ring) : Bool := r.head == r.tail

/-- the index after `i` on a ring of `cap` slots (00_scope.md R26) -/
def nextIndex (cap i : Nat) : Nat := (i + 1) % cap

/-- `full(r)` iff `(head + 1) mod CAP == tail` -/
def ringFull (cap : Nat) (r : Ring) : Bool := nextIndex cap r.head == r.tail

/-- `space(r) = (tail - head - 1) mod CAP` -/
def ringSpace (cap : Nat) (r : Ring) : Nat := (r.tail + cap - r.head - 1) % cap

/-- Slot `i` is occupied iff `(i - tail) mod CAP < count` (40_ring_engine.md R171). -/
def ringOccupied (cap : Nat) (r : Ring) (i : Nat) : Bool := decide ((i + cap - r.tail) % cap < ringCount cap r)

/-- Both indices are below the capacity and the count is at most `CAP - 1` (10_state.md R35, 60_exceptions.md R403). -/
def ringInBounds (cap : Nat) (r : Ring) : Bool :=
  decide (r.head < cap) && decide (r.tail < cap) && decide (ringCount cap r ≤ cap - 1)

/-! ## Bits of the controller command byte (10_state.md R42) -/

/-- bit 0, `ENIRQ1`; `kbd_irq_en = ram[0][0]` (R46) -/
def cmdEnIrq1 (v : Byte) : Bool := v.getLsbD 0

/-- bit 4, `KBD_DIS` -/
def cmdKbdDis (v : Byte) : Bool := v.getLsbD 4

/-- bit 6, `XLATE` -/
def cmdXlate (v : Byte) : Bool := v.getLsbD 6

/-- the mask of `KBD_DIS` (43_i8042_command_port.md R307, R308) -/
def kbdDisMask : Byte := 0x10

/-- the mask of `AUX_DIS` (43_i8042_command_port.md R303, R304) -/
def auxDisMask : Byte := 0x20

/-- the break bit of Set 1 (44_scancode_translate.md R343) -/
def breakBit : Byte := 0x80

/-- the break prefix of Set 2 (44_scancode_translate.md R343) -/
def breakPrefix : Byte := 0xF0

/-- line feed (40_ring_engine.md R175) -/
def lineFeed : Byte := 0x0A

/-- carriage return (40_ring_engine.md R175) -/
def carriageReturn : Byte := 0x0D

/-- The byte `v` with bit `r` set to `b` (41_matrix_scanner.md R202, `keys[row][col] <- v`). -/
def withBit (v : Byte) (r : Fin 8) (b : Bool) : Byte :=
  if b then v ||| (1#8 <<< r.val) else v &&& ~~~(1#8 <<< r.val)

end Sys2Proof.Machine
end

