-- ==== Sys2Proof/Machine/Operands.lean ====
section
/-! DEFINITION. The operand forms: reading and writing a byte space (spec 20_memory.md R80, R84, R85), the index operand
of a ring (30_encoding.md R113), the controller-RAM address (R123), a key position (R117) and the configuration tables
(00_scope.md R15, R18). -/

namespace Sys2Proof.Machine

/-! ## Byte spaces -/

/-- The byte a space lists at `a`, if any. -/
def memFind (a : Nat) : Mem → Option Byte
  | [] => none
  | (k, v) :: m => if k = a then some v else memFind a m

/-- The space with `b` listed at `a`, addresses kept rising. -/
def memInsert (a : Nat) (b : Byte) : Mem → Mem
  | [] => [(a, b)]
  | (k, v) :: m =>
    if a < k then (a, b) :: (k, v) :: m
    else if a = k then (a, b) :: m
    else (k, v) :: memInsert a b m

/-- The space with nothing listed at `a`. -/
def memErase (a : Nat) : Mem → Mem
  | [] => []
  | (k, v) :: m => if k = a then memErase a m else (k, v) :: memErase a m

/-- What an address not listed reads as in the RAM, `prev` and the key matrix: their reset contents
(10_state.md R47, R51; log 5, log 19). Ring slots have no such value (R32): see `slotRead`. -/
def unlistedByte : Byte := 0

/-- A read of the RAM, of `prev` or of the key matrix. -/
def memRead (a : Nat) (m : Mem) : Byte := (memFind a m).getD unlistedByte

/-- A write of the RAM, of `prev` or of the key matrix; the value an unlisted address reads as is not listed. -/
def memWrite (a : Nat) (b : Byte) (m : Mem) : Mem :=
  if b = unlistedByte then memErase a m else memInsert a b m

/-- Addresses strictly rising, all above `lo` or equal to it. -/
def memRising (lo : Nat) : Mem → Bool
  | [] => true
  | (k, _) :: m => decide (lo ≤ k) && memRising (k + 1) m

/-- The canonical form of a ring's storage of `size` slots: strictly rising, below `size`. -/
def slotsWf (size : Nat) (m : Mem) : Bool := memRising 0 m && m.all fun c => decide (c.1 < size)

/-- The canonical form of the RAM, `prev` and the key matrix: strictly rising, below `size`, no entry equal to what an
unlisted address reads as. -/
def Memory.wf (size : Nat) (m : Mem) : Bool := slotsWf size m && m.all fun c => c.2 != unlistedByte

/-! ## Controller RAM (00_scope.md R27) -/

/-- `RamRead(a)` -/
def ramRead (a : BitVec 5) (k : Kbc) : Byte := memRead a.toNat k.ram

/-- `RamWrite(a, v)` -/
def ramWrite (a : BitVec 5) (v : Byte) (k : Kbc) : Kbc := { k with ram := memWrite a.toNat v k.ram }

/-- The global command byte `ram[0]` (10_state.md R42). -/
def commandByte (k : Kbc) : Byte := ramRead 0 k

/-- `kbd_irq_en = ram[0][0]` (10_state.md R46). -/
def kbdIrqEn (k : Kbc) : Bool := cmdEnIrq1 (commandByte k)

/-! ## The resend buffer (10_state.md R50, 42_i8042_data_port.md R251, R259) -/

/-- `resend_buf[0 .. resend_len - 1]` -/
def cachedResponse (k : Kbc) : List Byte := k.resendBuf.toList.take k.resendLen

/-- `cache(resp, cacheable)` for a cacheable response (R251): an empty one leaves the cache as it was. -/
def cacheResponse (resp : List Byte) (k : Kbc) : Kbc :=
  if 0 < resp.length then
    { k with
      resendBuf := Vector.ofFn fun j => resp.getD j.val (k.resendBuf.get j)
      resendLen := resp.length }
  else k

/-! ## Rings by name -/

/-- The capacity of a ring (00_scope.md R11). -/
def capOf (c : Params) : RingId → Nat
  | .tx => c.capTx
  | .rx => c.capRx

/-- Ring `r`. -/
def State.ring (s : State) : RingId → Ring
  | .tx => s.tx
  | .rx => s.rx

/-- The state with ring `r` replaced. -/
def State.setRing (s : State) : RingId → Ring → State
  | .tx, x => { s with tx := x }
  | .rx, x => { s with rx := x }

/-- The capacity of ring `r`. -/
def State.cap (s : State) (r : RingId) : Nat := capOf s.cfg r

/-- `mask[r]` (10_state.md R40). -/
def State.mask (s : State) : RingId → Bool
  | .tx => s.maskTx
  | .rx => s.maskRx

/-- The state with `mask[r]` replaced. -/
def State.setMask (s : State) : RingId → Bool → State
  | .tx, v => { s with maskTx := v }
  | .rx, v => { s with maskRx := v }

/-- The index operand `A`, "an unsigned 16-bit value used as is" (30_encoding.md R113). -/
def indexOperand (i : Field16) : Nat := i.toNat

/-! ## Key positions and tables -/

/-- The column operand is inside the matrix (30_encoding.md R131). -/
def colInMatrix (c : Params) (col : Byte) : Bool := decide (col.toNat < c.ncol)

/-- `VALID_MASK[c]` (00_scope.md R15). -/
def validMaskAt (c : Params) (col : Nat) : Byte := c.validMask.getD col 0

/-- `MAKE(cs, row, col)`, `none` for `NONE` (00_scope.md R18, 44_scancode_translate.md R342). -/
def makeCode (c : Params) (cs : CodeSet) (row : Fin 8) (col : Nat) : Option MakeCode :=
  (c.make.find? fun e => e.codes == cs && e.row == row && e.col == col).map (·.code)

/-- The number of a set, as the query answers it (42_i8042_data_port.md R262). -/
def codeSetByte : CodeSet → Byte
  | .set1 => 1
  | .set2 => 2

end Sys2Proof.Machine
end

