-- ==== Sys2Proof/Machine/Ops.lean ====
section
/-! DEFINITION. The named operations of the block: free values, results, faults and reset, the ring primitives
(spec 40_ring_engine.md R151, R152), the matrix interface (41_matrix_scanner.md R200, R201), the translator's helpers
(42_i8042_data_port.md R251, R267, 43_i8042_command_port.md R305) and `translate` (44_scancode_translate.md R340). -/

namespace Sys2Proof.Machine

/-- The outcome of a step of this machine. -/
abbrev Outcome := Host.Outcome State Fault Refusal

/-! ## Results and free values -/

/-- `return v` (00_scope.md R27, 10_state.md R71; log 13). -/
def returns (v : Ret) (s : State) : State := { s with ret := some v }

/-- A transaction that has begun and not completed returns nothing yet (log 13). -/
def inProgress (s : State) : State := { s with ret := none }

/-- One more free value has been drawn (`draw()`, 00_scope.md R27; log 9). -/
def drawn (s : State) : State := { s with draws := s.draws + 1 }

/-! ## Faults (60_exceptions.md section 1) and reset -/

/-- `raise Fault(code, w)` (R400): `fault` is written and nothing else; the transaction ends. No handler, no vector. -/
def raiseFault (code : FaultCode) (w : Word) (s : State) : State := { s with fault := some { code := code, word := w } }

/-- Reset (70_reset_and_hazards.md R450), the only way out of a fault (R452): every piece of block state takes its reset
value; the configuration and the key matrix are kept, and so are the environment's inputs and turns (log 18). -/
def resetBlock (s : State) : State :=
  { State.initial s.cfg s.keys with inputs := s.inputs, turns := s.turns, draws := s.draws }

/-! ## Ring primitives -/

/-- `SlotRead(r, i)` (00_scope.md R27): the byte a write left there, or `draw()` for a slot never written since reset
(10_state.md R32; log 9). -/
def slotRead (r : RingId) (i : Nat) (s : State) : Byte × State :=
  match memFind i (s.ring r).data with
  | some b => (b, s)
  | none => (Config.freeByte s.draws, drawn s)

/-- `SlotWrite(r, i, b)` (00_scope.md R27). -/
def slotWrite (r : RingId) (i : Nat) (b : Byte) (s : State) : State :=
  s.setRing r { s.ring r with data := memInsert i b (s.ring r).data }

/-- `ring[r].head <- i` -/
def setHead (r : RingId) (i : Nat) (s : State) : State := s.setRing r { s.ring r with head := i }

/-- `ring[r].tail <- i` -/
def setTail (r : RingId) (i : Nat) (s : State) : State := s.setRing r { s.ring r with tail := i }

/-- `ring_push(r, b)` (40_ring_engine.md R151): whether the byte was stored, and the state after. -/
def ringPush (r : RingId) (b : Byte) (s : State) : Bool × State :=
  if ringFull (s.cap r) (s.ring r) then (false, s)
  else (true, setHead r (nextIndex (s.cap r) (s.ring r).head) (slotWrite r (s.ring r).head b s))

/-- `ring_pop(r)` (40_ring_engine.md R152): the oldest byte if there is one, and the state after. -/
def ringPop (r : RingId) (s : State) : Option Byte × State :=
  if ringEmpty (s.ring r) then (none, s)
  else
    (some (slotRead r (s.ring r).tail s).1,
      setTail r (nextIndex (s.cap r) (s.ring r).tail) (slotRead r (s.ring r).tail s).2)

/-- `isr_owned_slot(r, i)` (40_ring_engine.md R171). -/
def isrOwnedSlot (r : RingId) (i : Nat) (s : State) : Bool :=
  match r with
  | .tx => ringOccupied (s.cap .tx) s.tx i
  | .rx => !ringOccupied (s.cap .rx) s.rx i

/-! ## Matrix interface -/

/-- `drive_column(x)` (41_matrix_scanner.md R200). -/
def driveColumn (x : ColDrive) (s : State) : State := { s with scan := { s.scan with drive := x } }

/-- The closed switches of column `c`, bit `r` for row `r` (10_state.md R57). -/
def closedKeys (c : Nat) (keys : Mem) : Byte := memRead c keys

/-- The rows pulled active by the driven columns (41_matrix_scanner.md R201), bit `r` for row `r`. -/
def activeRows (c : Params) (drive : ColDrive) (keys : Mem) : Byte :=
  match drive with
  | .col k => if k < c.ncol then closedKeys k keys else 0
  | .assertAll => (List.range c.ncol).foldl (fun acc k => acc ||| closedKeys k keys) 0
  | .tristateAll => 0

/-- `sample_rows()`: the raw row byte, active low (41_matrix_scanner.md R201). -/
def sampleRows (s : State) : Byte := ~~~(activeRows s.cfg s.scan.drive s.keys)

/-- The row-change latch after a change of the rows (41_matrix_scanner.md R202, R204; log 24). -/
def latchRowChange (s : State) : State :=
  if s.scan.irqEn && (sampleRows s != s.scan.rowsAtArm) then
    { s with scan := { s.scan with irqPending := true } }
  else s

/-! ## Translator -/

/-- `emit(ch, b)` (00_scope.md R27, 10_state.md R66). -/
def emit (ch : Channel) (b : Byte) (s : State) : State :=
  { s with out := { s.out with host := s.out.host ++ [(ch, b)] } }

/-- The bytes of a response or a scan code, sent on KBD first element first (00_scope.md R28). -/
def emitAll (bs : List Byte) (s : State) : State := bs.foldl (fun t b => emit .kbd b t) s

/-- `signal(e)` (00_scope.md R27, 10_state.md R68). -/
def signal (e : CtlEvent) (s : State) : State :=
  { s with out := { s.out with ctl := s.out.ctl ++ [e] } }

/-- `dstate <- d` -/
def setDState (d : DState) (s : State) : State := { s with kbc := { s.kbc with dstate := d } }

/-- `cache(resp, cacheable)` (42_i8042_data_port.md R251). -/
def cache (resp : List Byte) (cacheable : Bool) (s : State) : State :=
  if cacheable then { s with kbc := cacheResponse resp s.kbc } else s

/-- The end of a DATA transaction (42_i8042_data_port.md R250): the response is emitted, then cached if it is cacheable. -/
def respondData (resp : List Byte) (cacheable : Bool) (s : State) : State :=
  returns .unit (cache resp cacheable (emitAll resp s))

/-- The end of a CMD transaction (43_i8042_command_port.md R300): the response is emitted and never cached. -/
def respondCmd (resp : List Byte) (s : State) : State := returns .unit (emitAll resp s)

/-- `set_kb_enabled(v)` (42_i8042_data_port.md R267). -/
def setKbEnabled (v : Bool) (s : State) : State :=
  if s.kbc.enabled != v then signal (.kbEnable v) { s with kbc := { s.kbc with enabled := v } } else s

/-- A signal sent only where a condition holds. -/
def signalIf (c : Bool) (e : CtlEvent) (s : State) : State := if c then signal e s else s

/-- The side effects of a write of byte 0 (43_i8042_command_port.md R305), in its order: the keyboard interrupt rises,
the keyboard enable follows KBD_DIS, the keyboard interrupt falls. -/
def commandByteEffects (old v : Byte) (s : State) : State :=
  signalIf (cmdEnIrq1 old && !cmdEnIrq1 v) (.kbdIrqEnable false)
    ((if cmdKbdDis old != cmdKbdDis v then setKbEnabled (!cmdKbdDis v) else id)
      (signalIf (!cmdEnIrq1 old && cmdEnIrq1 v) (.kbdIrqEnable true) s))

/-- `write_ram(a, v)` (43_i8042_command_port.md R305, R313). -/
def writeRam (a : BitVec 5) (v : Byte) (s : State) : State :=
  if a = 0 then commandByteEffects (commandByte s.kbc) v { s with kbc := ramWrite 0 v s.kbc }
  else { s with kbc := ramWrite a v s.kbc }

/-- `effective_set()` (44_scancode_translate.md R341). -/
def effectiveSet (k : Kbc) : CodeSet := if cmdXlate (commandByte k) then .set1 else k.codeSet

/-- The bytes of a key event (30_encoding.md R125, 44_scancode_translate.md R343 to R345). -/
def codeBytes (order : BreakOrder) (m : MakeCode) (eff : CodeSet) (pressed : Bool) : List Byte :=
  match m, pressed, eff with
  | .one m, true, _ => [m]
  | .one m, false, .set1 => [m ||| breakBit]
  | .one m, false, .set2 => [breakPrefix, m]
  | .two p m, true, _ => [p, m]
  | .two p m, false, .set1 => [p, m ||| breakBit]
  | .two p m, false, .set2 =>
    match order with
    | .doc => [breakPrefix, p, m]
    | .prefixFirst => [p, breakPrefix, m]

/-- `translate(row, col, pressed)` (44_scancode_translate.md R340): the status and the state after. -/
def translate (row : Fin 8) (col : Nat) (pressed : Bool) (s : State) : KeyStatus × State :=
  match makeCode s.cfg (effectiveSet s.kbc) row col with
  | none => (.unimplemented, s)
  | some m =>
    if s.kbc.enabled then
      (.ok, emitAll (codeBytes s.cfg.breakOrder m (effectiveSet s.kbc) pressed) s)
    else (.droppedDisabled, s)

end Sys2Proof.Machine
end

