-- ==== Sys2Proof/Machine/CommandPort.lean ====
section
/-! DEFINITION. The command port (spec 43_i8042_command_port.md): the host bytes of R301 to R311 and the CMD transaction
(R300) that decodes to them. -/

namespace Sys2Proof.Machine

/-- RD_RAM (R301): no side effect. -/
def execRdRam (a : BitVec 5) (s : State) : Outcome := .next (respondCmd [ramRead a s.kbc] s)

/-- WR_RAM (R302) -/
def execWrRam (a : BitVec 5) (s : State) : Outcome :=
  .next (respondCmd [] { s with kbc := { s.kbc with ramAddr := a, dstate := .awaitingCommandByte } })

/-- DIS_AUX (R303) -/
def execDisAux (s : State) : Outcome := .next (respondCmd [] (writeRam 0 (commandByte s.kbc ||| auxDisMask) s))

/-- ENA_AUX (R304) -/
def execEnaAux (s : State) : Outcome := .next (respondCmd [] (writeRam 0 (commandByte s.kbc &&& ~~~auxDisMask) s))

/-- SELF_TEST (R306): always passes. -/
def execSelfTest (s : State) : Outcome := .next (respondCmd [s.cfg.selfTestOk] s)

/-- DIS_KBD (R307) -/
def execDisKbd (s : State) : Outcome := .next (respondCmd [] (writeRam 0 (commandByte s.kbc ||| kbdDisMask) s))

/-- ENA_KBD (R308) -/
def execEnaKbd (s : State) : Outcome := .next (respondCmd [] (writeRam 0 (commandByte s.kbc &&& ~~~kbdDisMask) s))

/-- ECHO_MOUSE (R309) -/
def execEchoMouse (s : State) : Outcome := .next (respondCmd [] (setDState .echoMouse s))

/-- SEND_TO_MOUSE (R310) -/
def execSendToMouse (s : State) : Outcome := .next (respondCmd [] (setDState .sendToMouse s))

/-- CNAK (R311) -/
def execCnak (_b : Byte) (s : State) : Outcome := .next (respondCmd [s.cfg.nak] s)

/-- The meaning of a command-port operation. -/
def cmdOperation (op : CmdOp) (s : State) : Outcome :=
  match op with
  | .rdRam a => execRdRam a s
  | .wrRam a => execWrRam a s
  | .disAux => execDisAux s
  | .enaAux => execEnaAux s
  | .selfTest => execSelfTest s
  | .disKbd => execDisKbd s
  | .enaKbd => execEnaKbd s
  | .echoMouse => execEchoMouse s
  | .sendToMouse => execSendToMouse s
  | .cnak b => execCnak b s

/-- CMD b (R300): the operation `b` decodes to, whatever `dstate` is. -/
def execCmd (b : Byte) (s : State) : Outcome := cmdOperation (decodeCmd b) s

end Sys2Proof.Machine
end

