-- ==== Sys2Proof/Machine/Control.lean ====
section
/-! DEFINITION. Task-side control (spec 45_control.md R370 to R372) and the character transport's inputs (R380, R382). -/

namespace Sys2Proof.Machine

/-- `mask[r] <- v; return unit` (R370, R371). -/
def maskTransaction (r : RingId) (v : Bool) (s : State) : Outcome := .next (returns .unit (s.setMask r v))

/-- MASK RX (R370) -/
def execMaskRx (s : State) : Outcome := maskTransaction .rx true s

/-- MASK TX (R370) -/
def execMaskTx (s : State) : Outcome := maskTransaction .tx true s

/-- UNMASK RX (R371) -/
def execUnmaskRx (s : State) : Outcome := maskTransaction .rx false s

/-- UNMASK TX (R371) -/
def execUnmaskTx (s : State) : Outcome := maskTransaction .tx false s

/-- The wait completes with EVENT, which clears `ev_input` (R372). -/
def waitEvent (s : State) : State := returns .event { s with evInput := false, wait := none }

/-- The wait completes with TIMEOUT, `ev_input` unchanged (R372). -/
def waitTimeout (s : State) : State := returns .timeout { s with wait := none }

/-- The wait does not complete: TASK holds (R372; log 12). -/
def waitHolds (timeout : Bool) (s : State) : State := inProgress { s with wait := some timeout }

/-- WAIT_INPUT, first tried or retried (R372). With `ev_input` clear and a timeout, whether it times out now is free
("may return TIMEOUT at any point it chooses, or keep holding"; log 11). -/
def waitOn (timeout : Bool) (s : State) : State :=
  if s.evInput then waitEvent s
  else if timeout then
    if Config.freeBit s.draws then waitTimeout (drawn s) else waitHolds true (drawn s)
  else waitHolds false s

/-- WAIT_INPUT without timeout (R372) -/
def execWaitInput (s : State) : Outcome := .next (waitOn false s)

/-- WAIT_INPUT with timeout (R372) -/
def execWaitInputTimeout (s : State) : Outcome := .next (waitOn true s)

/-- RX_ARRIVE b (R380, R381): on an overrun one of the two bytes is lost, which one is free (log 10). -/
def execRxArrive (b : Byte) (s : State) : Outcome :=
  if s.port.rxPending then
    .next (returns .unit
      (drawn { s with port := { s.port with rxByte := if Config.freeBit s.draws then s.port.rxByte else b } }))
  else .next (returns .unit { s with port := { s.port with rxByte := b, rxPending := true } })

/-- TX_READY (R382) -/
def execTxReady (s : State) : Outcome := .next (returns .unit { s with port := { s.port with txReady := true } })

end Sys2Proof.Machine
end

