-- ==== Sys2Proof/Machine/DataPort.lean ====
section
/-! DEFINITION. The data port (spec 42_i8042_data_port.md): the host bytes of R252 to R266 and the DATA transaction
(R250) that decodes to them. A host-byte instruction has its effect whatever `dstate` is: `dstate` is a condition of
decoding (30_encoding.md R119), not of execution (log 20). -/

namespace Sys2Proof.Machine

/-- SETLEDS (R252) -/
def execSetleds (s : State) : Outcome := .next (respondData [s.cfg.ack] true (setDState .awaitingLedByte s))

/-- ECHO (R253) -/
def execEcho (s : State) : Outcome := .next (respondData [s.cfg.ack, s.cfg.echoRsp] true (setDState .normal s))

/-- SCANSET (R254) -/
def execScanset (s : State) : Outcome := .next (respondData [s.cfg.ack] true (setDState .awaitingScancodeSet s))

/-- GETID (R255) -/
def execGetid (s : State) : Outcome :=
  .next (respondData [s.cfg.ack, s.cfg.kbdId0, s.cfg.kbdId1] true (setDState .normal s))

/-- SETREP (R256): no argument state, no typematic state. -/
def execSetrep (s : State) : Outcome := .next (respondData [s.cfg.ack] true (setDState .normal s))

/-- ENABLE (R257) -/
def execEnable (s : State) : Outcome := .next (respondData [s.cfg.ack] true (setKbEnabled true (setDState .normal s)))

/-- DISABLE (R258) -/
def execDisable (s : State) : Outcome := .next (respondData [s.cfg.ack] true (setKbEnabled false (setDState .normal s)))

/-- What RESEND answers: the cached response, or NAK if nothing is cached (R259). -/
def resendResponse (s : State) : List Byte := if 0 < s.kbc.resendLen then cachedResponse s.kbc else [s.cfg.nak]

/-- RESEND (R259): never cached. -/
def execResend (s : State) : Outcome := .next (respondData (resendResponse s) false (setDState .normal s))

/-- RESET (R260): no reset of the block. -/
def execReset (s : State) : Outcome := .next (respondData [s.cfg.ack, s.cfg.batOk] true (setDState .normal s))

/-- DNAK (R261): `dstate` stays, nothing else is written. -/
def execDnak (_b : Byte) (s : State) : Outcome := .next (respondData [s.cfg.nak] false s)

/-- SCANSET_ARG (R262): 0 queries, 1 and 2 set, anything else is answered NAK. -/
def execScansetArg (b : Byte) (s : State) : Outcome :=
  if b = 0 then .next (respondData [s.cfg.ack, codeSetByte s.kbc.codeSet] true (setDState .normal s))
  else if b = 1 then
    .next (respondData [s.cfg.ack] true (setDState .normal { s with kbc := { s.kbc with codeSet := .set1 } }))
  else if b = 2 then
    .next (respondData [s.cfg.ack] true (setDState .normal { s with kbc := { s.kbc with codeSet := .set2 } }))
  else .next (respondData [s.cfg.nak] false (setDState .normal s))

/-- LED_ARG (R263): the byte is discarded. -/
def execLedArg (_b : Byte) (s : State) : Outcome := .next (respondData [s.cfg.ack] true (setDState .normal s))

/-- CMDBYTE_ARG (R264) -/
def execCmdbyteArg (b : Byte) (s : State) : Outcome :=
  .next (respondData [] false (setDState .normal (writeRam s.kbc.ramAddr b s)))

/-- ECHO_MOUSE_ARG (R265) -/
def execEchoMouseArg (b : Byte) (s : State) : Outcome :=
  .next (respondData [] false (setDState .normal (emit .aux b s)))

/-- SEND_TO_MOUSE_ARG (R266) -/
def execSendToMouseArg (b : Byte) (s : State) : Outcome :=
  .next (respondData [] false (setDState .normal { s with out := { s.out with aux := s.out.aux ++ [b] } }))

/-- The meaning of a data-port operation. -/
def dataOperation (op : DataOp) (s : State) : Outcome :=
  match op with
  | .setleds => execSetleds s
  | .echo => execEcho s
  | .scanset => execScanset s
  | .getid => execGetid s
  | .setrep => execSetrep s
  | .enable => execEnable s
  | .disable => execDisable s
  | .resend => execResend s
  | .reset => execReset s
  | .dnak b => execDnak b s
  | .scansetArg b => execScansetArg b s
  | .ledArg b => execLedArg b s
  | .cmdbyteArg b => execCmdbyteArg b s
  | .echoMouseArg b => execEchoMouseArg b s
  | .sendToMouseArg b => execSendToMouseArg b s

/-- DATA b (R250): the operation `b` decodes to in the context of `dstate` (30_encoding.md R119). -/
def execData (b : Byte) (s : State) : Outcome := dataOperation (decodeData s.kbc.dstate b) s

end Sys2Proof.Machine
end

