-- ==== Sys2Proof/Machine/RingEngine.lean ====
section
/-! DEFINITION. The ring transactions of the task side (spec 40_ring_engine.md R153 to R171). Each follows the check
order of 60_exceptions.md R407: index bound, ownership, operation. -/

namespace Sys2Proof.Machine

/-- A task-side write to state the ISR side owns, while that source is unmasked (40_ring_engine.md R171). -/
def breaksOwnership (isrOwned : Bool) (r : RingId) (s : State) : Bool := isrOwned && !s.mask r

/-- `PUSH r, b` (R153), `w` the transaction word. The ISR side owns the head of RX. -/
def pushTransaction (r : RingId) (b : Byte) (w : Word) (s : State) : Outcome :=
  if breaksOwnership (r == .rx) r s then .next (raiseFault .ownership w s)
  else .next (returns (.bool (ringPush r b s).1) (ringPush r b s).2)

/-- `POP r` (R154). The ISR side owns the tail of TX. -/
def popTransaction (r : RingId) (w : Word) (s : State) : Outcome :=
  if breaksOwnership (r == .tx) r s then .next (raiseFault .ownership w s)
  else .next (returns (.popped (ringPop r s).1) (ringPop r s).2)

/-- `IS_EMPTY r` (R155). -/
def isEmptyTransaction (r : RingId) (s : State) : Outcome := .next (returns (.bool (ringEmpty (s.ring r))) s)

/-- `SPACE r` (R156). -/
def spaceTransaction (r : RingId) (s : State) : Outcome := .next (returns (.count (ringSpace (s.cap r) (s.ring r))) s)

/-- `RD_HEAD r` (R165). -/
def rdHeadTransaction (r : RingId) (s : State) : Outcome := .next (returns (.index (s.ring r).head) s)

/-- `RD_TAIL r` (R166). -/
def rdTailTransaction (r : RingId) (s : State) : Outcome := .next (returns (.index (s.ring r).tail) s)

/-- `WR_HEAD r, i` (R167). -/
def wrHeadTransaction (r : RingId) (i : Field16) (w : Word) (s : State) : Outcome :=
  if s.cap r ≤ indexOperand i then .next (raiseFault .indexBounds w s)
  else if breaksOwnership (r == .rx) r s then .next (raiseFault .ownership w s)
  else .next (returns .unit (setHead r (indexOperand i) s))

/-- `WR_TAIL r, i` (R168). -/
def wrTailTransaction (r : RingId) (i : Field16) (w : Word) (s : State) : Outcome :=
  if s.cap r ≤ indexOperand i then .next (raiseFault .indexBounds w s)
  else if breaksOwnership (r == .tx) r s then .next (raiseFault .ownership w s)
  else .next (returns .unit (setTail r (indexOperand i) s))

/-- `RD_SLOT r, i` (R169). -/
def rdSlotTransaction (r : RingId) (i : Field16) (w : Word) (s : State) : Outcome :=
  if s.cap r ≤ indexOperand i then .next (raiseFault .indexBounds w s)
  else .next (returns (.byte (slotRead r (indexOperand i) s).1) (slotRead r (indexOperand i) s).2)

/-- `WR_SLOT r, i, b` (R170). -/
def wrSlotTransaction (r : RingId) (i : Field16) (b : Byte) (w : Word) (s : State) : Outcome :=
  if s.cap r ≤ indexOperand i then .next (raiseFault .indexBounds w s)
  else if breaksOwnership (isrOwnedSlot r (indexOperand i) s) r s then .next (raiseFault .ownership w s)
  else .next (returns .unit (slotWrite r (indexOperand i) b s))

/-- PUSH TX (R153) -/
def execPushTx (b : Byte) (s : State) : Outcome := pushTransaction .tx b (encode (.pushTx b)) s

/-- POP TX (R154) -/
def execPopTx (s : State) : Outcome := popTransaction .tx (encode .popTx) s

/-- IS_EMPTY TX (R155) -/
def execIsEmptyTx (s : State) : Outcome := isEmptyTransaction .tx s

/-- SPACE TX (R156) -/
def execSpaceTx (s : State) : Outcome := spaceTransaction .tx s

/-- RD_HEAD TX (R165) -/
def execRdHeadTx (s : State) : Outcome := rdHeadTransaction .tx s

/-- RD_TAIL TX (R166) -/
def execRdTailTx (s : State) : Outcome := rdTailTransaction .tx s

/-- WR_HEAD TX (R167) -/
def execWrHeadTx (i : Field16) (s : State) : Outcome := wrHeadTransaction .tx i (encode (.wrHeadTx i)) s

/-- WR_TAIL TX (R168) -/
def execWrTailTx (i : Field16) (s : State) : Outcome := wrTailTransaction .tx i (encode (.wrTailTx i)) s

/-- RD_SLOT TX (R169) -/
def execRdSlotTx (i : Field16) (s : State) : Outcome := rdSlotTransaction .tx i (encode (.rdSlotTx i)) s

/-- WR_SLOT TX (R170) -/
def execWrSlotTx (i : Field16) (b : Byte) (s : State) : Outcome :=
  wrSlotTransaction .tx i b (encode (.wrSlotTx i b)) s

/-- PUSH RX (R153) -/
def execPushRx (b : Byte) (s : State) : Outcome := pushTransaction .rx b (encode (.pushRx b)) s

/-- POP RX (R154) -/
def execPopRx (s : State) : Outcome := popTransaction .rx (encode .popRx) s

/-- IS_EMPTY RX (R155) -/
def execIsEmptyRx (s : State) : Outcome := isEmptyTransaction .rx s

/-- SPACE RX (R156) -/
def execSpaceRx (s : State) : Outcome := spaceTransaction .rx s

/-- RD_HEAD RX (R165) -/
def execRdHeadRx (s : State) : Outcome := rdHeadTransaction .rx s

/-- RD_TAIL RX (R166) -/
def execRdTailRx (s : State) : Outcome := rdTailTransaction .rx s

/-- WR_HEAD RX (R167) -/
def execWrHeadRx (i : Field16) (s : State) : Outcome := wrHeadTransaction .rx i (encode (.wrHeadRx i)) s

/-- WR_TAIL RX (R168) -/
def execWrTailRx (i : Field16) (s : State) : Outcome := wrTailTransaction .rx i (encode (.wrTailRx i)) s

/-- RD_SLOT RX (R169) -/
def execRdSlotRx (i : Field16) (s : State) : Outcome := rdSlotTransaction .rx i (encode (.rdSlotRx i)) s

/-- WR_SLOT RX (R170) -/
def execWrSlotRx (i : Field16) (b : Byte) (s : State) : Outcome :=
  wrSlotTransaction .rx i b (encode (.wrSlotRx i b)) s

end Sys2Proof.Machine
end

