-- ==== Sys2Proof/Machine/Scanner.lean ====
section
/-! DEFINITION. The keyboard matrix scanner (spec 41_matrix_scanner.md): KEY_SET, the row interrupt engine and the
scanner's steps. -/

namespace Sys2Proof.Machine

/-- `keys[row][col] <- v` (R202). -/
def setKey (row : Fin 8) (col : Nat) (v : Bool) (s : State) : State :=
  { s with keys := memWrite col (withBit (closedKeys col s.keys) row v) s.keys }

/-- KEY_SET row, col, v (R202, R204); refused by value outside the matrix (30_encoding.md R131). -/
def execKeySet (row : Fin 8) (col : Byte) (v : Bool) (s : State) : Outcome :=
  if colInMatrix s.cfg col then .next (returns .unit (latchRowChange (setKey row col.toNat v s)))
  else .refused .keyColumn

/-- `step ISR_ROW` (R205). -/
def isrRow (s : State) : State :=
  { s with scan := { s.scan with irqEn := false, irqPending := false }, evKbwake := true }

/-- `step SCAN.WAKE` (R206). -/
def scanWake (s : State) : State :=
  { s with
    evKbwake := false
    scan := { s.scan with state := .polling, drive := .tristateAll, col := 0, idle := 0 } }

/-- `report(row, col, pressed)` (R209): the translator runs and the edge is recorded with its answer. -/
def report (row : Fin 8) (col : Nat) (pressed : Bool) (s : State) : State :=
  { (translate row col pressed s).2 with
    out := { (translate row col pressed s).2.out with
      edges := (translate row col pressed s).2.out.edges ++
        [{ row := row, col := col, pressed := pressed, status := (translate row col pressed s).1 }] } }

/-- The rows of a column in ascending order (R209). -/
def rowOrder : List (Fin 8) := [0, 1, 2, 3, 4, 5, 6, 7]

/-- The edges between two row bytes of a column, in the order of `rows` (R207, R208): each differing row with its new
level. -/
def edgesOf (old new : Byte) (rows : List (Fin 8)) : List (Fin 8 × Bool) :=
  (rows.filter fun r => (new ^^^ old).getLsbD r.val).map fun r => (r, new.getLsbD r.val)

/-- Every edge reported in turn (R207). -/
def reportAll (col : Nat) : List (Fin 8 × Bool) → State → State
  | [], s => s
  | (r, p) :: es, s => reportAll col es (report r col p s)

/-- The column's new row byte: the sample of column `c` inverted and masked (R207). -/
def columnState (c : Nat) (s : State) : Byte := ~~~(sampleRows (driveColumn (.col c) s)) &&& validMaskAt s.cfg c

/-- `step SCAN.COL` (R207, R208, R216). -/
def scanCol (s : State) : State :=
  let c := s.scan.col
  let new := columnState c s
  let t := reportAll c (edgesOf (memRead c s.scan.prev) new rowOrder) (driveColumn (.col c) s)
  { t with scan := { t.scan with prev := memWrite c new t.scan.prev, col := c + 1 } }

/-- No key held: `prev[c] == 0` for every `c < NCOL` (R210). -/
def noKeyHeld (s : State) : Bool := (List.range s.cfg.ncol).all fun c => memRead c s.scan.prev == 0

/-- The re-check after arming (R215), where `REPOLL_AFTER_ARM` asks for it. -/
def repollAfterArm (s : State) : State :=
  if s.cfg.repollAfterArm && (s.scan.rowsAtArm != 0xFF) then
    { s with scan := { s.scan with irqEn := false, state := .polling, drive := .tristateAll } }
  else s

/-- `arm()` (R211). -/
def arm (s : State) : State :=
  let t := driveColumn .assertAll s
  repollAfterArm
    { t with scan :=
      { t.scan with
        rowsAtArm := sampleRows t, irqPending := false, irqEn := true, state := .waitingForInterrupt
        col := 0, idle := 0 } }

/-- `step SCAN.END` (R210). -/
def scanEnd (s : State) : State :=
  let idle := if noKeyHeld s then s.scan.idle + 1 else 0
  let t : State := { s with scan := { s.scan with drive := .tristateAll, idle := idle } }
  if s.cfg.pollIdleLimit ≤ idle then arm t else { t with scan := { t.scan with col := 0 } }

end Sys2Proof.Machine
end

