-- ==== Sys2Proof/Machine/Translation.lean ====
section
/-! DEFINITION. KEY_EVENT, the translator's direct entry point (spec 44_scancode_translate.md R347). -/

namespace Sys2Proof.Machine

/-- KEY_EVENT row, col, p (R347); refused by value outside the matrix (30_encoding.md R131). It does not touch `keys`,
`prev` or `edge_log`. -/
def execKeyEvent (row : Fin 8) (col : Byte) (p : Bool) (s : State) : Outcome :=
  if colInMatrix s.cfg col then
    .next (returns (.status (translate row col.toNat p s).1) (translate row col.toNat p s).2)
  else .refused .keyColumn

end Sys2Proof.Machine
end

