-- ==== Sys2Proof/Machine/TxFrontEnd.lean ====
section
/-! DEFINITION. The TX front end (spec 40_ring_engine.md R175, R176). -/

namespace Sys2Proof.Machine

/-- The first step of a translated line feed (R175): the carriage return is pushed, `txf_ok` keeps its result, and the
transaction is not over until `step TASK.LF`. -/
def putcLineFeed (s : State) : State :=
  inProgress { (ringPush .tx carriageReturn s).2 with
    front := { s.front with lfPending := true, ok := (ringPush .tx carriageReturn s).1 } }

/-- PUTC b (R175) -/
def execPutc (b : Byte) (s : State) : Outcome :=
  if s.front.mode = .console ∧ b = lineFeed then .next (putcLineFeed s)
  else .next (returns (.bool (ringPush .tx b s).1) (ringPush .tx b s).2)

/-- `step TASK.LF` (R175): the line feed is pushed and the PUTC returns. -/
def taskLf (s : State) : State :=
  returns (.bool (s.front.ok && (ringPush .tx lineFeed s).1))
    { (ringPush .tx lineFeed s).2 with front := { s.front with lfPending := false } }

/-- `tx_mode <- m` (R176) -/
def setMode (m : TxMode) (s : State) : State := returns .unit { s with front := { s.front with mode := m } }

/-- SET_MODE RAW (R176) -/
def execSetModeRaw (s : State) : Outcome := .next (setMode .raw s)

/-- SET_MODE CONSOLE (R176) -/
def execSetModeConsole (s : State) : Outcome := .next (setMode .console s)

end Sys2Proof.Machine
end

