-- ==== Sys2Proof/Machine/Dispatch.lean ====
section
/-! DEFINITION. The dispatch: one arm per instruction, each one call of its meaning. -/

namespace Sys2Proof.Machine

def exec (i : Instr) (s : State) : Host.Outcome State Fault Refusal :=
  match i with
  | .pushTx b => Sys2Proof.Machine.execPushTx b s
  | .popTx => Sys2Proof.Machine.execPopTx s
  | .isEmptyTx => Sys2Proof.Machine.execIsEmptyTx s
  | .spaceTx => Sys2Proof.Machine.execSpaceTx s
  | .rdHeadTx => Sys2Proof.Machine.execRdHeadTx s
  | .rdTailTx => Sys2Proof.Machine.execRdTailTx s
  | .wrHeadTx index => Sys2Proof.Machine.execWrHeadTx index s
  | .wrTailTx index => Sys2Proof.Machine.execWrTailTx index s
  | .rdSlotTx index => Sys2Proof.Machine.execRdSlotTx index s
  | .wrSlotTx index b => Sys2Proof.Machine.execWrSlotTx index b s
  | .pushRx b => Sys2Proof.Machine.execPushRx b s
  | .popRx => Sys2Proof.Machine.execPopRx s
  | .isEmptyRx => Sys2Proof.Machine.execIsEmptyRx s
  | .spaceRx => Sys2Proof.Machine.execSpaceRx s
  | .rdHeadRx => Sys2Proof.Machine.execRdHeadRx s
  | .rdTailRx => Sys2Proof.Machine.execRdTailRx s
  | .wrHeadRx index => Sys2Proof.Machine.execWrHeadRx index s
  | .wrTailRx index => Sys2Proof.Machine.execWrTailRx index s
  | .rdSlotRx index => Sys2Proof.Machine.execRdSlotRx index s
  | .wrSlotRx index b => Sys2Proof.Machine.execWrSlotRx index b s
  | .putc b => Sys2Proof.Machine.execPutc b s
  | .setModeRaw => Sys2Proof.Machine.execSetModeRaw s
  | .setModeConsole => Sys2Proof.Machine.execSetModeConsole s
  | .maskRx => Sys2Proof.Machine.execMaskRx s
  | .maskTx => Sys2Proof.Machine.execMaskTx s
  | .unmaskRx => Sys2Proof.Machine.execUnmaskRx s
  | .unmaskTx => Sys2Proof.Machine.execUnmaskTx s
  | .waitInput => Sys2Proof.Machine.execWaitInput s
  | .waitInputTimeout => Sys2Proof.Machine.execWaitInputTimeout s
  | .data b => Sys2Proof.Machine.execData b s
  | .cmd b => Sys2Proof.Machine.execCmd b s
  | .rxArrive b => Sys2Proof.Machine.execRxArrive b s
  | .txReady => Sys2Proof.Machine.execTxReady s
  | .keySet row col v => Sys2Proof.Machine.execKeySet row col v s
  | .keyEvent row col p => Sys2Proof.Machine.execKeyEvent row col p s
  | .setleds => Sys2Proof.Machine.execSetleds s
  | .echo => Sys2Proof.Machine.execEcho s
  | .scanset => Sys2Proof.Machine.execScanset s
  | .getid => Sys2Proof.Machine.execGetid s
  | .setrep => Sys2Proof.Machine.execSetrep s
  | .enable => Sys2Proof.Machine.execEnable s
  | .disable => Sys2Proof.Machine.execDisable s
  | .resend => Sys2Proof.Machine.execResend s
  | .reset => Sys2Proof.Machine.execReset s
  | .dnak b => Sys2Proof.Machine.execDnak b s
  | .scansetArg b => Sys2Proof.Machine.execScansetArg b s
  | .ledArg b => Sys2Proof.Machine.execLedArg b s
  | .cmdbyteArg b => Sys2Proof.Machine.execCmdbyteArg b s
  | .echoMouseArg b => Sys2Proof.Machine.execEchoMouseArg b s
  | .sendToMouseArg b => Sys2Proof.Machine.execSendToMouseArg b s
  | .rdRam a => Sys2Proof.Machine.execRdRam a s
  | .wrRam a => Sys2Proof.Machine.execWrRam a s
  | .disAux => Sys2Proof.Machine.execDisAux s
  | .enaAux => Sys2Proof.Machine.execEnaAux s
  | .selfTest => Sys2Proof.Machine.execSelfTest s
  | .disKbd => Sys2Proof.Machine.execDisKbd s
  | .enaKbd => Sys2Proof.Machine.execEnaKbd s
  | .echoMouse => Sys2Proof.Machine.execEchoMouse s
  | .sendToMouse => Sys2Proof.Machine.execSendToMouse s
  | .cnak b => Sys2Proof.Machine.execCnak b s

end Sys2Proof.Machine
end

