-- ==== Sys2Proof/Machine/Interrupts.lean ====
section
/-! DEFINITION. The interrupt sources and their engines (spec 60_exceptions.md R410 to R418, 40_ring_engine.md R180,
R181), and the agent steps of 30_encoding.md R129: when each is enabled and what it does. Taking an interrupt is the
engine's one atomic step: nothing is saved, no vector, no return (R417, R418). -/

namespace Sys2Proof.Machine

/-- SRC_RX is pending while `rx_pending = 1` (60_exceptions.md R411). -/
def srcRxPending (s : State) : Bool := s.port.rxPending

/-- SRC_TX is pending while `tx_ready = 1` and the TX ring is not empty (R412). -/
def srcTxPending (s : State) : Bool := s.port.txReady && !ringEmpty s.tx

/-- SRC_ROW is pending while `row_irq_pending = 1` (R413). -/
def srcRowPending (s : State) : Bool := s.scan.irqPending

/-- `step ISR_RX` (40_ring_engine.md R180): the byte is enqueued or counted as dropped, and `ev_input` is posted. -/
def isrRx (s : State) : State :=
  { (ringPush .rx s.port.rxByte s).2 with
    port := { s.port with rxPending := false }
    out := { s.out with
      rxDropped := if (ringPush .rx s.port.rxByte s).1 then s.out.rxDropped else s.out.rxDropped + 1 }
    evInput := true }

/-- `step ISR_TX` (40_ring_engine.md R181): one byte moves from the TX ring to `tx_wire`. -/
def isrTx (s : State) : State :=
  match ringPop .tx s with
  | (some b, t) =>
    { t with
      port := { s.port with txReady := false }
      out := { s.out with wire := s.out.wire ++ [b] } }
  | (none, t) => t

/-- The step an agent has, if any, apart from issuing a transaction: the enabling conditions of 40_ring_engine.md R175,
R180, R181, 41_matrix_scanner.md R205, R206, R207, R210 and 45_control.md R372. While `txf_lf_pending = 1` TASK has no
other step (R175). -/
def agentStepOf (a : Agent) (s : State) : Option AgentStep :=
  match a with
  | .task =>
    if s.front.lfPending then some .taskLf
    else match s.wait with
      | some timeout => if s.evInput || timeout then some .taskWait else none
      | none => none
  | .isrRx => if srcRxPending s && !s.maskRx then some .isrRx else none
  | .isrTx => if srcTxPending s && !s.maskTx then some .isrTx else none
  | .isrRow => if s.scan.irqEn && srcRowPending s then some .isrRow else none
  | .scan =>
    match s.scan.state with
    | .waitingForInterrupt => if s.evKbwake then some .scanWake else none
    | .polling =>
      if s.scan.col < s.cfg.ncol then some .scanCol
      else if s.scan.col = s.cfg.ncol then some .scanEnd
      else none
  | .host => none
  | .env => none
  | .harness => none

/-- What an agent step does (30_encoding.md R129; the retried wait is 45_control.md R372's). -/
def runAgentStep (step : AgentStep) (s : State) : State :=
  match step with
  | .isrRx => isrRx s
  | .isrTx => isrTx s
  | .taskLf => taskLf s
  | .taskWait => waitOn (s.wait.getD false) s
  | .isrRow => isrRow s
  | .scanWake => scanWake s
  | .scanCol => scanCol s
  | .scanEnd => scanEnd s

end Sys2Proof.Machine
end

