-- ==== Sys2Proof/Machine/Scheduler.lean ====
section
/-! DEFINITION. The interleaving (spec 00_scope.md R22 to R24, 60_exceptions.md R416, R418): what an agent's turn does,
how its next transaction is fetched, and which agent steps when no turn is listed. -/

namespace Sys2Proof.Machine

/-- The first of the inputs that agent `a` issues (30_encoding.md R111), and the inputs without it. -/
def nextInput (a : Agent) : List Word → Option (Word × List Word)
  | [] => none
  | w :: ws =>
    if issuerOf w = a then some (w, ws)
    else (nextInput a ws).map fun p => (p.1, w :: p.2)

/-- Both rings keep their indices and counts in bounds (10_state.md R35). -/
def ringsInBounds (s : State) : Bool := ringInBounds (s.cap .tx) s.tx && ringInBounds (s.cap .rx) s.rx

/-- The check of 60_exceptions.md R403: a step that would leave a ring out of bounds raises FAULT_INVARIANT instead,
recording the transaction word, or 0 for an agent step (log 16). -/
def checkInvariant (w : Word) (before : State) (o : Outcome) : Outcome :=
  match o with
  | .next t => if ringsInBounds t then .next t else .next (raiseFault .invariant w before)
  | .fault f => .fault f
  | .refused r => .refused r

/-- One transaction: the word is decoded and the operation runs (30_encoding.md R110, R131; 60_exceptions.md R407). -/
def transact (w : Word) (s : State) : Outcome :=
  match decodeWord w with
  | .ok i => checkInvariant w s (exec i s)
  | .error e => .refused (.notAnOperation e)

/-- An agent that holds issues nothing: TASK while a WAIT_INPUT is in progress (45_control.md R372, R374). -/
def holds (a : Agent) (s : State) : Bool := a == .task && s.wait.isSome

/-- An agent's turn: its enabled step, or else its next transaction. An agent that has neither passes (log 3). -/
def takeTurn (a : Agent) (s : State) : Outcome :=
  match agentStepOf a s with
  | some st => checkInvariant 0 s (.next (runAgentStep st s))
  | none =>
    if holds a s then .next s
    else match nextInput a s.inputs with
      | some (w, rest) => transact w { s with inputs := rest }
      | none => .next s

/-- Every agent. -/
def allAgents : List Agent := [.task, .isrRx, .isrTx, .isrRow, .scan, .host, .env, .harness]

/-- The agent has a step to take now. -/
def enabled (a : Agent) (s : State) : Bool :=
  (agentStepOf a s).isSome || (!holds a s && (nextInput a s.inputs).isSome)

/-- The agents that have a step to take now. -/
def enabledAgents (s : State) : List Agent := allAgents.filter fun a => enabled a s

/-- With no turn listed, one of the enabled agents steps; where there are several, which one is free (00_scope.md R24;
log 1). With none enabled the block waits for its environment (log 3). -/
def freeTurn (s : State) : Outcome :=
  match enabledAgents s with
  | [] => .next s
  | [a] => takeTurn a s
  | a :: b :: as => takeTurn ((a :: b :: as).getD (Config.freeNat s.draws % (as.length + 2)) a) (drawn s)

/-- The next turn of the interleaving. After a fault no agent steps (60_exceptions.md R400); only a reset does
(70_reset_and_hazards.md R452). -/
def nextTurn (s : State) : Outcome :=
  match s.turns with
  | .reset :: ts => .next (resetBlock { s with turns := ts })
  | .agent a :: ts =>
    match s.fault with
    | some f => .fault (.halted f)
    | none => takeTurn a { s with turns := ts }
  | [] =>
    match s.fault with
    | some f => .fault (.halted f)
    | none => freeTurn s

/-- The state with transaction `w` presented next: first of the inputs, its issuer's turn first (30_encoding.md R110,
R111; log 21). -/
def present (w : Word) (s : State) : State :=
  { s with inputs := w :: s.inputs, turns := .agent (issuerOf w) :: s.turns }

end Sys2Proof.Machine
end

