-- ==== Sys2Proof/Machine/Step.lean ====
section
/-! DEFINITION. One step of the machine: the next turn of the interleaving. -/

namespace Sys2Proof.Machine

/-- One step (00_scope.md R22 to R24). -/
def step (s : State) : Host.Outcome State Fault Refusal := nextTurn s

/-- The state with the instruction of a table word presented as the next transaction (log 21, log 22). A host byte's row
is presented as the CMD or DATA word that carries it. -/
def State.withFetchWord (s : State) (nbits w : Nat) : State := present (tableTransaction nbits w) s

end Sys2Proof.Machine
end

