-- ==== Sys2Proof/Safety.lean ====
section
/-! DEFINITION. What counts as a good state of the block, in the terms the claims use: the invariants the spec states of
every reachable state (10_state.md R35, R42, R50 to R54, R57, R68, 41_matrix_scanner.md R203, R204), the contents of a
ring as a queue (20_memory.md R92) and the end of a run (60_exceptions.md R432). -/

namespace Sys2Proof.Machine

/-! ## Storage -/

/-- Every byte space is in canonical form: ring slots below the capacity, RAM below 32, `prev` and keys below `NCOL`. -/
def memoriesCanonical (s : State) : Bool :=
  slotsWf s.cfg.capTx s.tx.data && slotsWf s.cfg.capRx s.rx.data
    && Memory.wf 32 s.kbc.ram && Memory.wf s.cfg.ncol s.scan.prev && Memory.wf s.cfg.ncol s.keys

/-- The storage invariant: an admitted configuration, both rings in bounds (R35), every space canonical. -/
def storageOk (s : State) : Bool := s.cfg.wf && ringsInBounds s && memoriesCanonical s

/-! ## Scanner -/

/-- What 41_matrix_scanner.md R203 and R204 say of the two scanner states, and the ranges of 10_state.md R52, R53:
while polling the row interrupt is off; while waiting every column is driven and either the interrupt is armed or the
wake event is posted, never both; a request is latched only while armed, and is latched whenever the rows differ from
the armed level. -/
def scannerOk (s : State) : Bool :=
  (s.scan.state != .polling || (!s.scan.irqEn && !s.evKbwake))
    && (s.scan.state != .waitingForInterrupt || (s.scan.drive == .assertAll && s.scan.irqEn == !s.evKbwake))
    && (!s.scan.irqPending || s.scan.irqEn)
    && (!s.scan.irqEn || s.scan.irqPending || sampleRows s == s.scan.rowsAtArm)
    && decide (s.scan.col ≤ s.cfg.ncol) && decide (s.scan.idle ≤ s.cfg.pollIdleLimit)
    && (match s.scan.drive with
        | .col c => decide (c < s.cfg.ncol)
        | .assertAll => true
        | .tristateAll => true)

/-- Every bit of `prev[c]` is a valid key of column `c` (41_matrix_scanner.md R207, R214). -/
def prevMasked (s : State) : Bool := s.scan.prev.all fun e => e.2 &&& ~~~(validMaskAt s.cfg e.1) == 0

/-! ## Translator -/

/-- The keyboard enables signalled, in order. -/
def kbSignals (l : List CtlEvent) : List Bool :=
  l.filterMap fun e => match e with
    | .kbEnable v => some v
    | .kbdIrqEnable _ => none

/-- The keyboard-interrupt enables signalled, in order. -/
def irqSignals (l : List CtlEvent) : List Bool :=
  l.filterMap fun e => match e with
    | .kbEnable _ => none
    | .kbdIrqEnable v => some v

/-- Each value differs from the one before it, the first from `v`. -/
def alternatesFrom (v : Bool) : List Bool → Bool
  | [] => true
  | x :: xs => (x != v) && alternatesFrom x xs

/-- The last value of a list, or `v` for an empty one. -/
def lastFrom (v : Bool) : List Bool → Bool
  | [] => v
  | x :: xs => lastFrom x xs

/-- "invoking enable/disable callbacks only on actual transitions" (10_state.md R68): the signals of each kind alternate,
and the last one is the level of the enable it reports (`kb_enabled`, R44; `kbd_irq_en`, R46), both 0 at reset. -/
def signalsOk (s : State) : Bool :=
  alternatesFrom false (kbSignals s.out.ctl) && (lastFrom false (kbSignals s.out.ctl) == s.kbc.enabled)
    && alternatesFrom false (irqSignals s.out.ctl) && (lastFrom false (irqSignals s.out.ctl) == kbdIrqEn s.kbc)

/-- `resend_len` is at most 3 (10_state.md R50). -/
def resendOk (s : State) : Bool := decide (s.kbc.resendLen ≤ 3)

/-- A translated line feed in progress and a WAIT_INPUT in progress exclude each other: TASK has one transaction at a
time (40_ring_engine.md R175, 45_control.md R372). -/
def taskOk (s : State) : Bool := !s.front.lfPending || s.wait.isNone

/-! ## A ring as a queue (20_memory.md R92) -/

/-- The bytes a ring holds, oldest first; `none` for an occupied slot that no write has reached. -/
def ringContents (cap : Nat) (r : Ring) : List (Option Byte) :=
  (List.range (ringCount cap r)).map fun k => memFind ((r.tail + k) % cap) r.data

/-- A sequence of pushes (`some b`) and pops (`none`) on ring `r`: the bytes the pushes had accepted, the bytes the pops
returned, and the state after. -/
def runQueue (r : RingId) : List (Option Byte) → State → List Byte × List Byte × State
  | [], s => ([], [], s)
  | some b :: ops, s =>
    let rest := runQueue r ops (ringPush r b s).2
    (if (ringPush r b s).1 then b :: rest.1 else rest.1, rest.2.1, rest.2.2)
  | none :: ops, s =>
    let rest := runQueue r ops (ringPop r s).2
    (rest.1, (ringPop r s).1.toList ++ rest.2.1, rest.2.2)

/-! ## A host byte answered -/

/-- `t` is `base` after a data-port byte was answered with `resp` and `dstate` left at `d` (42_i8042_data_port.md R250,
R251): the response is on channel KBD in order; a response that is `cached` is what a RESEND now replays, and with one
that is not the resend buffer is as it was; nothing else differs. -/
def answered (base t : State) (resp : List Byte) (cached : Bool) (d : DState) : Prop :=
  t = { base with
        kbc := { base.kbc with dstate := d, resendLen := t.kbc.resendLen, resendBuf := t.kbc.resendBuf }
        out := { base.out with host := base.out.host ++ resp.map fun b => (Channel.kbd, b) }
        ret := some .unit } ∧
    (cached = true → cachedResponse t.kbc = resp ∧ t.kbc.resendLen = resp.length) ∧
    (cached = false → t.kbc.resendLen = base.kbc.resendLen ∧ t.kbc.resendBuf = base.kbc.resendBuf)

/-! ## End of a run -/

/-- TASK has no WAIT_INPUT in progress, or one that only a post of `ev_input` can end (45_control.md R372): no event is
posted and no timeout is open (log 30). -/
def taskHeldOrIdle (s : State) : Bool :=
  match s.wait with
  | none => true
  | some timeout => !timeout && !s.evInput

/-- The run is over (60_exceptions.md R432): no fault, no enabled step of any agent, no transaction in progress but a held
WAIT_INPUT, and the script used up. -/
def runOver (s : State) : Bool :=
  s.fault.isNone && !s.front.lfPending && taskHeldOrIdle s && (!s.port.rxPending || s.maskRx)
    && (ringEmpty s.tx || !s.port.txReady || s.maskTx)
    && !(s.scan.irqEn && s.scan.irqPending)
    && (s.scan.state == .waitingForInterrupt && !s.evKbwake)
    && s.inputs.isEmpty

/-! ## Instructions of the two rings, by ring -/

/-- The instructions that take an index operand (60_exceptions.md R401), with that operand and their ring. -/
def indexOperandOf : Instr → Option (RingId × Field16)
  | .wrHeadTx i => some (.tx, i)
  | .wrTailTx i => some (.tx, i)
  | .rdSlotTx i => some (.tx, i)
  | .wrSlotTx i _ => some (.tx, i)
  | .wrHeadRx i => some (.rx, i)
  | .wrTailRx i => some (.rx, i)
  | .rdSlotRx i => some (.rx, i)
  | .wrSlotRx i _ => some (.rx, i)
  | .pushTx _ | .popTx | .isEmptyTx | .spaceTx | .rdHeadTx | .rdTailTx => none
  | .pushRx _ | .popRx | .isEmptyRx | .spaceRx | .rdHeadRx | .rdTailRx => none
  | .putc _ | .setModeRaw | .setModeConsole | .maskRx | .maskTx | .unmaskRx | .unmaskTx | .waitInput | .waitInputTimeout => none
  | .data _ | .cmd _ | .rxArrive _ | .txReady | .keySet _ _ _ | .keyEvent _ _ _ => none
  | .setleds | .echo | .scanset | .getid | .setrep | .enable | .disable | .resend | .reset => none
  | .dnak _ | .scansetArg _ | .ledArg _ | .cmdbyteArg _ | .echoMouseArg _ | .sendToMouseArg _ => none
  | .rdRam _ | .wrRam _ | .disAux | .enaAux | .selfTest | .disKbd | .enaKbd | .echoMouse | .sendToMouse | .cnak _ => none

end Sys2Proof.Machine
end

