-- ==== Sys2Proof/Certificates/Slice0/Obligations.lean ====
section
/-! DEFINITION. The statements about the block, for the provers. `ret` is the value a transaction returns to its issuer
(10_state.md section 9; log 13), `none` while it is in progress; `draws` counts the free values drawn (log 9). A statement
that rests on one of the model's own choices names the log entry (notes/assumptions). -/

open Sys2Proof Sys2Proof.Machine

/-! ## Encoding -/

/-- Every transaction's word decodes to it, with every operand at every value (30_encoding.md sections 1 and 6). -/
def Obligations.EncodedTransactionsDecodeBack : Prop :=
  ∀ i : Instr, isTransaction i = true → decodeWord (encode i) = .ok i

/-- Every well-formed host-byte instruction's word decodes to it in the `dstate` its row asks for, on its port
(30_encoding.md sections 2 and 6). -/
def Obligations.EncodedHostBytesDecodeBack : Prop :=
  ∀ (c : Params) (d : DState) (i : Instr), isTransaction i = false → WellFormed c i = true →
    (∀ q, tableState i = some q → d = q) → decodeIn d (encode i) = .ok i

/-- A word that decodes in the context of `dstate` is the word of what it decodes to: no bit is dropped and no word has
two spellings. A host byte's row is one of that `dstate`, and a fallback row is taken only where no other row matches
(30_encoding.md sections 1, 2 and 6). -/
def Obligations.DecodedWordsEncodeBack : Prop :=
  ∀ (d : DState) (w : Word) (i : Instr), decodeIn d w = .ok i →
    encode i = w ∧ (∀ q, tableState i = some q → q = d) ∧
      (∀ b, i = .dnak b → isDnakByte b = true) ∧ (∀ b, i = .cnak b → isCnakByte b = true)

/-- A word spells a transaction exactly when it matches a row of the opcode table and, for a key position (units 5 and
6 with KEY_SET's and KEY_EVENT's operation), names a row below 8 (30_encoding.md sections 5 and 6). A key position whose
column is outside the matrix spells no operation either (R131); that the decoder accepts its word, and the operation refuses
the column when it runs, is the model's choice (log 17). -/
def Obligations.DecoderAcceptsExactlyTheTable : Prop :=
  ∀ w : Word, (∃ i, decodeWord w = .ok i) ↔
    (∃ r ∈ wordRows, w &&& r.mask = r.bits) ∧
      (w.extractLsb' 24 8 = 0x52#8 ∨ w.extractLsb' 24 8 = 0x60#8 → (w.extractLsb' 8 8).toNat < 8)

/-- No word matches two rows of the table, and words written out bit by bit from the tables of 30_encoding.md decode to
the instructions they stand for, one of each unit and one of each port. -/
def Obligations.SpecWordsDecode : Prop :=
  wordRows.Pairwise (fun r q => r.bits &&& (r.mask &&& q.mask) ≠ q.bits &&& (r.mask &&& q.mask)) ∧
    decodeWord 0b0000_1001_0000000000000010_01010101 = .ok (.wrSlotTx 2 0x55) ∧
    decodeWord 0b0001_0110_0000000000000101_00000000 = .ok (.wrHeadRx 5) ∧
    decodeWord 0b0010_0000_0000000000000000_00001010 = .ok (.putc 0x0A) ∧
    decodeWord 0b0011_0001_0000000000000000_00000001 = .ok .unmaskTx ∧
    decodeWord 0b0100_0001_0000000000000000_01100000 = .ok (.cmd 0x60) ∧
    decodeWord 0b0101_0010_0000000100000101_00000001 = .ok (.keySet 5 1 true) ∧
    decodeWord 0b0110_0000_0000000100000001_00000000 = .ok (.keyEvent 1 1 false) ∧
    decodeData .normal 0b11110010 = .getid ∧ decodeData .awaitingLedByte 0b11101101 = .ledArg 0xED ∧
    decodeCmd 0b01100101 = .wrRam 5 ∧ decodeCmd 0b00111111 = .rdRam 31

/-! ## The step -/

/-- When it is agent `a`'s turn, no fault stands, the agent has no step of its own due and does not hold, and its next
transaction's word decodes to `i`, the step is `exec i` on the state with the turn and the word taken, under the
invariant check of 60_exceptions.md (log 1, log 16). -/
def Obligations.StepRunsTheDecodedTransaction : Prop :=
  ∀ (s : State) (a : Agent) (ts : List Turn) (w : Word) (rest : List Word) (i : Instr),
    s.turns = .agent a :: ts → s.fault = none → agentStepOf a s = none → holds a s = false →
    nextInput a s.inputs = some (w, rest) → decodeWord w = .ok i →
      step s = checkInvariant w { s with turns := ts, inputs := rest } (exec i { s with turns := ts, inputs := rest })

/-- An agent's due step is taken at its turn, under the same check, with word 0 (60_exceptions.md; log 1, log 16). -/
def Obligations.StepRunsTheAgentsStep : Prop :=
  ∀ (s : State) (a : Agent) (ts : List Turn) (st : AgentStep),
    s.turns = .agent a :: ts → s.fault = none → agentStepOf a s = some st →
      step s = checkInvariant 0 { s with turns := ts } (.next (runAgentStep st { s with turns := ts }))

/-- A table word presented to a block with no fault and no transaction in progress runs as the very next step, with
nothing of the state changed before it (log 21): for a word of 32 bits the transaction, for a host byte in NORMAL the
instruction of its row (log 22). It runs under the model's invariant check of 60_exceptions.md section 1 (log 16), whether
the rings are in bounds before it or not. The argument rows, which the other values of `dstate` choose, are not spoken of
here. -/
def Obligations.PresentedTableWordRuns : Prop :=
  ∀ (s : State) (nbits w : Nat) (i : Instr), (nbits = 8 ∨ nbits = 32) → s.fault = none → s.front.lfPending = false →
    s.wait = none → s.kbc.dstate = .normal → decodeTableWord nbits w = some i →
      step (s.withFetchWord nbits w) = checkInvariant (tableTransaction nbits w) s (exec i s)

/-- A word that spells no operation is refused by name, as is a key position in a column outside the matrix; no state
is written (30_encoding.md section 5). That the refused outcome is the refusal mark is log 15, that the column is checked
when the operation runs log 17. -/
def Obligations.WordsThatSpellNothingAreRefused : Prop :=
  (∀ (s : State) (a : Agent) (ts : List Turn) (w : Word) (rest : List Word) (e : DecodeError),
    s.turns = .agent a :: ts → s.fault = none → agentStepOf a s = none → holds a s = false →
    nextInput a s.inputs = some (w, rest) → decodeWord w = .error e → step s = .refused (.notAnOperation e)) ∧
  ∀ (s : State) (row : Fin 8) (col : Byte) (v : Bool), s.cfg.ncol ≤ col.toNat →
    exec (.keySet row col v) s = .refused .keyColumn ∧ exec (.keyEvent row col v) s = .refused .keyColumn

/-! ## Ring engine -/

/-- `ring_push` as PUSH TX, and PUSH RX under its mask, run it: with room, the byte is stored at `head`, `head` advances
modulo the capacity and the result is true; on a full ring the result is false and nothing else changes, slots and
indices included. The slots other than `head` keep their bytes. -/
def Obligations.PushStoresAndAdvances : Prop :=
  ∀ (s : State) (b : Byte),
    ((s.tx.head + 1) % s.cfg.capTx ≠ s.tx.tail →
      exec (.pushTx b) s = .next { s with
        tx := { head := (s.tx.head + 1) % s.cfg.capTx, tail := s.tx.tail, data := memInsert s.tx.head b s.tx.data }
        ret := some (.bool true) }) ∧
    ((s.tx.head + 1) % s.cfg.capTx = s.tx.tail → exec (.pushTx b) s = .next { s with ret := some (.bool false) }) ∧
    (s.maskRx = true → (s.rx.head + 1) % s.cfg.capRx ≠ s.rx.tail →
      exec (.pushRx b) s = .next { s with
        rx := { head := (s.rx.head + 1) % s.cfg.capRx, tail := s.rx.tail, data := memInsert s.rx.head b s.rx.data }
        ret := some (.bool true) }) ∧
    (s.maskRx = true → (s.rx.head + 1) % s.cfg.capRx = s.rx.tail →
      exec (.pushRx b) s = .next { s with ret := some (.bool false) }) ∧
    ∀ (r : Machine.Ring) (j : Nat), memFind j (memInsert r.head b r.data) = if j = r.head then some b else memFind j r.data

/-- `ring_pop` as POP RX, and POP TX under its mask, run it: on an empty ring the result is none and nothing else
changes; otherwise the result is the byte of the slot at `tail` and `tail` advances modulo the capacity. The byte of a
slot no write has reached is a free value: one more is drawn, and nothing is said of it (log 9). No slot changes. -/
def Obligations.PopTakesTheOldest : Prop :=
  ∀ s : State,
    (s.rx.head = s.rx.tail → exec .popRx s = .next { s with ret := some (.popped none) }) ∧
    (s.rx.head ≠ s.rx.tail → ∃ (b : Byte) (d : Nat),
      exec .popRx s = .next { s with
        rx := { s.rx with tail := (s.rx.tail + 1) % s.cfg.capRx }, ret := some (.popped (some b)), draws := d } ∧
      (∀ x, memFind s.rx.tail s.rx.data = some x → b = x ∧ d = s.draws) ∧
      (memFind s.rx.tail s.rx.data = none → d = s.draws + 1)) ∧
    (s.maskTx = true → s.tx.head = s.tx.tail → exec .popTx s = .next { s with ret := some (.popped none) }) ∧
    (s.maskTx = true → s.tx.head ≠ s.tx.tail → ∃ (b : Byte) (d : Nat),
      exec .popTx s = .next { s with
        tx := { s.tx with tail := (s.tx.tail + 1) % s.cfg.capTx }, ret := some (.popped (some b)), draws := d } ∧
      (∀ x, memFind s.tx.tail s.tx.data = some x → b = x ∧ d = s.draws) ∧
      (memFind s.tx.tail s.tx.data = none → d = s.draws + 1))

/-- IS_EMPTY, SPACE, RD_HEAD and RD_TAIL have the words the spec gives them, answer for either ring, masked or not, and
change nothing but the value returned; SPACE answers `(tail - head - 1) mod CAP`, the non-negative remainder. -/
def Obligations.RingQueriesOnlyAnswer : Prop :=
  (encode .isEmptyTx = 0x02000000 ∧ encode .isEmptyRx = 0x12000000 ∧ encode .spaceTx = 0x03000000 ∧
    encode .spaceRx = 0x13000000 ∧ encode .rdHeadTx = 0x04000000 ∧ encode .rdHeadRx = 0x14000000 ∧
    encode .rdTailTx = 0x05000000 ∧ encode .rdTailRx = 0x15000000) ∧
  ∀ s : State,
    exec .isEmptyTx s = .next { s with ret := some (.bool (decide (s.tx.head = s.tx.tail))) } ∧
    exec .isEmptyRx s = .next { s with ret := some (.bool (decide (s.rx.head = s.rx.tail))) } ∧
    exec .rdHeadTx s = .next { s with ret := some (.index s.tx.head) } ∧
    exec .rdHeadRx s = .next { s with ret := some (.index s.rx.head) } ∧
    exec .rdTailTx s = .next { s with ret := some (.index s.tx.tail) } ∧
    exec .rdTailRx s = .next { s with ret := some (.index s.rx.tail) } ∧
    (∃ n : Nat, exec .spaceTx s = .next { s with ret := some (.count n) } ∧
      (s.tx.head < s.cfg.capTx → (n : Int) = ((s.tx.tail : Int) - s.tx.head - 1) % s.cfg.capTx)) ∧
    (∃ n : Nat, exec .spaceRx s = .next { s with ret := some (.count n) } ∧
      (s.rx.head < s.cfg.capRx → (n : Int) = ((s.rx.tail : Int) - s.rx.head - 1) % s.cfg.capRx))

/-- The derived quantities of a ring whose indices are below a capacity of at least 2 agree: the count is the remainder
of `head - tail`, the space is `CAP - 1 - count`, the ring is empty iff its count is 0 and full iff its space is 0, so
at most `CAP - 1` bytes are held. -/
def Obligations.SpaceComplementsCount : Prop :=
  ∀ (cap : Nat) (r : Machine.Ring), 2 ≤ cap → r.head < cap → r.tail < cap →
    (ringCount cap r : Int) = ((r.head : Int) - r.tail) % cap ∧
    ringSpace cap r = cap - 1 - ringCount cap r ∧ ringCount cap r ≤ cap - 1 ∧
    (ringSpace cap r : Int) = ((r.tail : Int) - r.head - 1) % cap ∧
    (ringEmpty r = true ↔ r.head = r.tail) ∧ (ringEmpty r = true ↔ ringCount cap r = 0) ∧
    (ringFull cap r = true ↔ (r.head + 1) % cap = r.tail) ∧ (ringFull cap r = true ↔ ringSpace cap r = 0)

/-- WR_HEAD and WR_TAIL with an index below the capacity write that index and nothing else (but the value returned); the
head of RX and the tail of TX need their source masked. -/
def Obligations.IndexWritesTakeEffect : Prop :=
  ∀ (s : State) (i : Field16),
    (i.toNat < s.cfg.capTx →
      exec (.wrHeadTx i) s = .next { s with tx := { s.tx with head := i.toNat }, ret := some .unit }) ∧
    (i.toNat < s.cfg.capTx → s.maskTx = true →
      exec (.wrTailTx i) s = .next { s with tx := { s.tx with tail := i.toNat }, ret := some .unit }) ∧
    (i.toNat < s.cfg.capRx → s.maskRx = true →
      exec (.wrHeadRx i) s = .next { s with rx := { s.rx with head := i.toNat }, ret := some .unit }) ∧
    (i.toNat < s.cfg.capRx →
      exec (.wrTailRx i) s = .next { s with rx := { s.rx with tail := i.toNat }, ret := some .unit })

/-- RD_SLOT with an index below the capacity answers the slot's byte and changes nothing else; for a slot no write has
reached it answers a free value, one more drawn (log 9). No mask is needed. -/
def Obligations.SlotReadsAnswerTheSlot : Prop :=
  ∀ (s : State) (i : Field16),
    (i.toNat < s.cfg.capTx → ∃ (b : Byte) (d : Nat),
      exec (.rdSlotTx i) s = .next { s with ret := some (.byte b), draws := d } ∧
      (∀ x, memFind i.toNat s.tx.data = some x → b = x ∧ d = s.draws) ∧
      (memFind i.toNat s.tx.data = none → d = s.draws + 1)) ∧
    (i.toNat < s.cfg.capRx → ∃ (b : Byte) (d : Nat),
      exec (.rdSlotRx i) s = .next { s with ret := some (.byte b), draws := d } ∧
      (∀ x, memFind i.toNat s.rx.data = some x → b = x ∧ d = s.draws) ∧
      (memFind i.toNat s.rx.data = none → d = s.draws + 1))

/-- WR_SLOT with an index below the capacity, on a slot the task owns or with the source masked, stores the byte in that
slot and changes no index and no other slot. The task owns the slots of TX that are not occupied and the slots of RX that
are. -/
def Obligations.SlotWritesStoreOneByte : Prop :=
  ∀ (s : State) (i : Field16) (b : Byte),
    (i.toNat < s.cfg.capTx → s.maskTx = true ∨ ringOccupied s.cfg.capTx s.tx i.toNat = false → ∃ m : Mem,
      exec (.wrSlotTx i b) s = .next { s with tx := { s.tx with data := m }, ret := some .unit } ∧
      ∀ j, memFind j m = if j = i.toNat then some b else memFind j s.tx.data) ∧
    (i.toNat < s.cfg.capRx → s.maskRx = true ∨ ringOccupied s.cfg.capRx s.rx i.toNat = true → ∃ m : Mem,
      exec (.wrSlotRx i b) s = .next { s with rx := { s.rx with data := m }, ret := some .unit } ∧
      ∀ j, memFind j m = if j = i.toNat then some b else memFind j s.rx.data)

/-- Every transaction with an index operand at or above the capacity faults with FAULT_INDEX_BOUNDS and its own word,
masked or not, so before any ownership check, and writes nothing else. -/
def Obligations.IndexBeyondCapacityFaults : Prop :=
  ∀ (s : State) (i : Instr) (r : RingId) (x : Field16), indexOperandOf i = some (r, x) → s.cap r ≤ x.toNat →
    exec i s = .next { s with fault := some { code := .indexBounds, word := encode i } }

/-- PUSH RX, POP TX, WR_HEAD RX, WR_TAIL TX and WR_SLOT on an ISR-owned slot, while that ring's mask is 0 (and their
index operand is in bounds), fault with FAULT_OWNERSHIP and their own word and write nothing else. -/
def Obligations.OwnershipBreachFaults : Prop :=
  ∀ (s : State) (b : Byte) (x : Field16),
    (s.maskRx = false →
      exec (.pushRx b) s = .next { s with fault := some { code := .ownership, word := encode (.pushRx b) } }) ∧
    (s.maskTx = false →
      exec .popTx s = .next { s with fault := some { code := .ownership, word := encode .popTx } }) ∧
    (s.maskRx = false → x.toNat < s.cfg.capRx →
      exec (.wrHeadRx x) s = .next { s with fault := some { code := .ownership, word := encode (.wrHeadRx x) } }) ∧
    (s.maskTx = false → x.toNat < s.cfg.capTx →
      exec (.wrTailTx x) s = .next { s with fault := some { code := .ownership, word := encode (.wrTailTx x) } }) ∧
    (s.maskTx = false → x.toNat < s.cfg.capTx → ringOccupied s.cfg.capTx s.tx x.toNat = true →
      exec (.wrSlotTx x b) s = .next { s with fault := some { code := .ownership, word := encode (.wrSlotTx x b) } }) ∧
    (s.maskRx = false → x.toNat < s.cfg.capRx → ringOccupied s.cfg.capRx s.rx x.toNat = false →
      exec (.wrSlotRx x b) s = .next { s with fault := some { code := .ownership, word := encode (.wrSlotRx x b) } })

/-- The occupied slots of a ring in bounds are the `count` slots from `tail` on, modulo the capacity; the slot at `head`
is not one of them. -/
def Obligations.OccupiedSlotsAreTheQueue : Prop :=
  ∀ (cap : Nat) (r : Machine.Ring), r.head < cap → r.tail < cap →
    (∀ i, i < cap → (ringOccupied cap r i = true ↔ ∃ k, k < ringCount cap r ∧ (r.tail + k) % cap = i)) ∧
      ringOccupied cap r r.head = false

/-- For every sequence of pushes and pops on a ring in bounds that starts empty, the bytes the pops return, followed by
the bytes still held, are the bytes the pushes had accepted, in order; so the popped bytes are a prefix of them. A push
after it fails exactly when `CAP - 1` bytes are held, and a failed push changes nothing. -/
def Obligations.QueueIsFirstInFirstOut : Prop :=
  ∀ (r : RingId) (ops : List (Option Byte)) (s : State), s.cfg.wf = true → ringsInBounds s = true →
    ringEmpty (s.ring r) = true →
      ((runQueue r ops s).1.map some =
        (runQueue r ops s).2.1.map some ++
          ringContents ((runQueue r ops s).2.2.cap r) ((runQueue r ops s).2.2.ring r)) ∧
      (runQueue r ops s).2.1 <+: (runQueue r ops s).1 ∧
      ∀ b : Byte,
        ((ringPush r b (runQueue r ops s).2.2).1 = false ↔
          (ringContents ((runQueue r ops s).2.2.cap r) ((runQueue r ops s).2.2.ring r)).length =
            (runQueue r ops s).2.2.cap r - 1) ∧
        ((ringPush r b (runQueue r ops s).2.2).1 = false →
          (ringPush r b (runQueue r ops s).2.2).2 = (runQueue r ops s).2.2)

/-- Every fault is precise: an operation that changes the fault register writes nothing else, records its own word, and
its code is FAULT_INDEX_BOUNDS or FAULT_OWNERSHIP. -/
def Obligations.FaultsArePrecise : Prop :=
  ∀ (i : Instr) (s t : State), exec i s = .next t → t.fault ≠ s.fault →
    ∃ code, (code = .indexBounds ∨ code = .ownership) ∧ t = { s with fault := some { code := code, word := encode i } }

/-- No operation moves an index that the ISR side owns while that source is unmasked: RX's head and TX's tail. -/
def Obligations.UnmaskedIsrIndicesStay : Prop :=
  ∀ (i : Instr) (s t : State), exec i s = .next t →
    (s.maskRx = false → t.rx.head = s.rx.head) ∧ (s.maskTx = false → t.tx.tail = s.tx.tail)

/-! ## TX front end -/

/-- PUTC of any byte but a line feed in CONSOLE mode pushes that one byte and returns whether it was stored; in RAW mode
a line feed is pushed as it is. -/
def Obligations.PutcPushesOneByte : Prop :=
  ∀ (s : State) (b : Byte), s.front.mode = .raw ∨ b ≠ 0x0A →
    ((s.tx.head + 1) % s.cfg.capTx ≠ s.tx.tail →
      exec (.putc b) s = .next { s with
        tx := { head := (s.tx.head + 1) % s.cfg.capTx, tail := s.tx.tail, data := memInsert s.tx.head b s.tx.data }
        ret := some (.bool true) }) ∧
    ((s.tx.head + 1) % s.cfg.capTx = s.tx.tail → exec (.putc b) s = .next { s with ret := some (.bool false) })

/-- PUTC of a line feed in CONSOLE mode pushes a carriage return, keeps whether it was stored in `txf_ok`, and is not
over; TASK's next turn is then the line feed's push, which ends it with true iff both bytes were stored. -/
def Obligations.PutcOfLineFeedTakesTwoSteps : Prop :=
  ∀ s : State,
    (s.front.mode = .console →
      ((s.tx.head + 1) % s.cfg.capTx ≠ s.tx.tail →
        exec (.putc 0x0A) s = .next { s with
          tx := { head := (s.tx.head + 1) % s.cfg.capTx, tail := s.tx.tail, data := memInsert s.tx.head 0x0D s.tx.data }
          front := { s.front with lfPending := true, ok := true }, ret := none }) ∧
      ((s.tx.head + 1) % s.cfg.capTx = s.tx.tail →
        exec (.putc 0x0A) s = .next { s with front := { s.front with lfPending := true, ok := false }, ret := none })) ∧
    (s.front.lfPending = true → agentStepOf .task s = some .taskLf ∧
      ((s.tx.head + 1) % s.cfg.capTx ≠ s.tx.tail →
        runAgentStep .taskLf s = { s with
          tx := { head := (s.tx.head + 1) % s.cfg.capTx, tail := s.tx.tail, data := memInsert s.tx.head 0x0A s.tx.data }
          front := { s.front with lfPending := false }, ret := some (.bool s.front.ok) }) ∧
      ((s.tx.head + 1) % s.cfg.capTx = s.tx.tail →
        runAgentStep .taskLf s = { s with front := { s.front with lfPending := false }, ret := some (.bool false) }))

/-- With at least two free slots a line feed put in CONSOLE mode appends exactly CR and LF to what the TX ring holds, and
returns true, when TASK.LF follows. -/
def Obligations.LineFeedWithRoomIsNotSplit : Prop :=
  ∀ s t : State, s.cfg.wf = true → ringsInBounds s = true → s.front.mode = .console →
    2 ≤ ringSpace s.cfg.capTx s.tx → exec (.putc 0x0A) s = .next t →
      ringContents s.cfg.capTx (runAgentStep .taskLf t).tx =
        ringContents s.cfg.capTx s.tx ++ [some 0x0D, some 0x0A] ∧
      (runAgentStep .taskLf t).ret = some (.bool true)

/-! ## Control and transport -/

/-- SET_MODE, MASK and UNMASK have the words the spec gives them, write their one register and return unit; the bytes in
the TX ring are not changed. -/
def Obligations.ModeAndMaskWrites : Prop :=
  (encode .setModeRaw = 0x21000000 ∧ encode .setModeConsole = 0x21000001 ∧ encode .maskRx = 0x30000000 ∧
    encode .maskTx = 0x30000001 ∧ encode .unmaskRx = 0x31000000 ∧ encode .unmaskTx = 0x31000001) ∧
  ∀ s : State,
    exec .setModeRaw s = .next { s with front := { s.front with mode := .raw }, ret := some .unit } ∧
    exec .setModeConsole s = .next { s with front := { s.front with mode := .console }, ret := some .unit } ∧
    exec .maskRx s = .next { s with maskRx := true, ret := some .unit } ∧
    exec .maskTx s = .next { s with maskTx := true, ret := some .unit } ∧
    exec .unmaskRx s = .next { s with maskRx := false, ret := some .unit } ∧
    exec .unmaskTx s = .next { s with maskTx := false, ret := some .unit }

/-- WAIT_INPUT with `ev_input` set completes with EVENT and clears it, with or without a timeout. -/
def Obligations.WaitWithEventCompletes : Prop :=
  ∀ s : State, s.evInput = true →
    exec .waitInput s = .next { s with evInput := false, wait := none, ret := some .event } ∧
    exec .waitInputTimeout s = .next { s with evInput := false, wait := none, ret := some .event }

/-- WAIT_INPUT with `ev_input` clear holds, and with a timeout either holds or completes with TIMEOUT, one free choice
drawn, `ev_input` unchanged (log 11, log 12). -/
def Obligations.WaitWithoutEventHolds : Prop :=
  ∀ s : State, s.evInput = false →
    exec .waitInput s = .next { s with wait := some false, ret := none } ∧
    (exec .waitInputTimeout s = .next { s with wait := none, ret := some .timeout, draws := s.draws + 1 } ∨
      exec .waitInputTimeout s = .next { s with wait := some true, ret := none, draws := s.draws + 1 })

/-- While it holds in WAIT_INPUT without a timeout and with no event, TASK's turn issues nothing; while a ring's source is
masked, its engine's turn does nothing: in both cases only the turn is used up (log 3). While it holds in WAIT_INPUT with a
timeout and no event, TASK's turn issues nothing, draws one free choice, and either completes the wait with TIMEOUT or goes
on holding, `ev_input` unchanged (log 11). When the event is posted, a held wait, with a timeout or without, completes with
EVENT at TASK's turn (log 12). -/
def Obligations.HeldAndMaskedAgentsPass : Prop :=
  ∀ (s : State) (ts : List Turn), s.fault = none →
    (s.turns = .agent .task :: ts → s.front.lfPending = false → s.wait = some false → s.evInput = false →
      step s = .next { s with turns := ts }) ∧
    (s.turns = .agent .isrRx :: ts → s.maskRx = true →
      step s = .next { s with turns := ts }) ∧
    (s.turns = .agent .isrTx :: ts → s.maskTx = true →
      step s = .next { s with turns := ts }) ∧
    (s.turns = .agent .task :: ts → s.front.lfPending = false → s.wait = some true → s.evInput = false →
      ringsInBounds s = true →
      step s = .next { s with turns := ts, wait := none, ret := some .timeout, draws := s.draws + 1 } ∨
        step s = .next { s with turns := ts, wait := some true, ret := none, draws := s.draws + 1 }) ∧
    (∀ timeout, s.turns = .agent .task :: ts → s.front.lfPending = false → s.wait = some timeout → s.evInput = true →
      ringsInBounds s = true →
      step s = .next { s with turns := ts, evInput := false, wait := none, ret := some .event })

/-- RX_ARRIVE latches the byte and the request; on an overrun one of the two bytes is kept, which one being a free choice
(log 10), and the loss is not counted. TX_READY sets `tx_ready`. -/
def Obligations.TransportInputsAreLatched : Prop :=
  (encode .txReady = 0x51000000 ∧ ∀ b, encode (.rxArrive b) = 0x50000000 ||| b.setWidth 32) ∧
  ∀ (s : State) (b : Byte),
    (s.port.rxPending = false →
      exec (.rxArrive b) s = .next { s with port := { s.port with rxPending := true, rxByte := b }, ret := some .unit }) ∧
    (s.port.rxPending = true → ∃ x, (x = s.port.rxByte ∨ x = b) ∧
      exec (.rxArrive b) s =
        .next { s with port := { s.port with rxByte := x }, ret := some .unit, draws := s.draws + 1 }) ∧
    exec .txReady s = .next { s with port := { s.port with txReady := true }, ret := some .unit }

/-! ## Interrupt engines -/

/-- ISR_RX steps exactly when a byte is pending and RX is unmasked; it stores the byte, or counts it as dropped on a full
ring and leaves the ring alone, clears the request and posts `ev_input` in both cases. -/
def Obligations.ReceiveInterruptServesOneByte : Prop :=
  ∀ s : State,
    (agentStepOf .isrRx s = some .isrRx ↔ s.port.rxPending = true ∧ s.maskRx = false) ∧
    ((s.rx.head + 1) % s.cfg.capRx ≠ s.rx.tail →
      runAgentStep .isrRx s = { s with
        rx := { head := (s.rx.head + 1) % s.cfg.capRx, tail := s.rx.tail,
                data := memInsert s.rx.head s.port.rxByte s.rx.data }
        port := { s.port with rxPending := false }, evInput := true }) ∧
    ((s.rx.head + 1) % s.cfg.capRx = s.rx.tail →
      runAgentStep .isrRx s = { s with
        port := { s.port with rxPending := false }, evInput := true
        out := { s.out with rxDropped := s.out.rxDropped + 1 } })

/-- ISR_TX steps exactly when the transport is ready, TX is unmasked and its ring is not empty; it moves the byte of the
slot at `tail` (a free value, one more drawn, if no write has reached it; log 9) to `tx_wire` and clears `tx_ready`. -/
def Obligations.TransmitInterruptSendsTheOldest : Prop :=
  ∀ s : State,
    (agentStepOf .isrTx s = some .isrTx ↔ s.port.txReady = true ∧ s.maskTx = false ∧ s.tx.head ≠ s.tx.tail) ∧
    (s.tx.head ≠ s.tx.tail → ∃ (b : Byte) (d : Nat),
      runAgentStep .isrTx s = { s with
        tx := { s.tx with tail := (s.tx.tail + 1) % s.cfg.capTx }
        port := { s.port with txReady := false }
        out := { s.out with wire := s.out.wire ++ [b] }, draws := d } ∧
      (∀ x, memFind s.tx.tail s.tx.data = some x → b = x ∧ d = s.draws) ∧
      (memFind s.tx.tail s.tx.data = none → d = s.draws + 1))

/-! ## Data port -/

/-- The data-port commands that write nothing but `dstate`, their response and the cache, each with its byte: SETLEDS,
ECHO, SCANSET, GETID, SETREP, RESET; and the LED argument, which is discarded. -/
def Obligations.AcknowledgedCommands : Prop :=
  (decodeData .normal 0xED = .setleds ∧ decodeData .normal 0xEE = .echo ∧ decodeData .normal 0xF0 = .scanset ∧
    decodeData .normal 0xF2 = .getid ∧ decodeData .normal 0xF3 = .setrep ∧ decodeData .normal 0xFF = .reset ∧
    ∀ b, decodeData .awaitingLedByte b = .ledArg b) ∧
  ∀ s : State,
    (∃ t, exec .setleds s = .next t ∧ answered s t [s.cfg.ack] true .awaitingLedByte) ∧
    (∃ t, exec .echo s = .next t ∧ answered s t [s.cfg.ack, s.cfg.echoRsp] true .normal) ∧
    (∃ t, exec .scanset s = .next t ∧ answered s t [s.cfg.ack] true .awaitingScancodeSet) ∧
    (∃ t, exec .getid s = .next t ∧ answered s t [s.cfg.ack, s.cfg.kbdId0, s.cfg.kbdId1] true .normal) ∧
    (∃ t, exec .setrep s = .next t ∧ answered s t [s.cfg.ack] true .normal) ∧
    (∃ t, exec .reset s = .next t ∧ answered s t [s.cfg.ack, s.cfg.batOk] true .normal) ∧
    ∀ b, ∃ t, exec (.ledArg b) s = .next t ∧ answered s t [s.cfg.ack] true .normal

/-- ENABLE and DISABLE set `kb_enabled`, signal KB_ENABLE only on a change, answer ACK, and do not write `ram[0]`. -/
def Obligations.EnableAndDisableSignalOnChange : Prop :=
  (decodeData .normal 0xF4 = .enable ∧ decodeData .normal 0xF5 = .disable) ∧
  ∀ s : State,
    (∃ t, exec .enable s = .next t ∧
      answered { s with
        kbc := { s.kbc with enabled := true }
        out := { s.out with ctl := s.out.ctl ++ if s.kbc.enabled then [] else [.kbEnable true] } } t
        [s.cfg.ack] true .normal) ∧
    (∃ t, exec .disable s = .next t ∧
      answered { s with
        kbc := { s.kbc with enabled := false }
        out := { s.out with ctl := s.out.ctl ++ if s.kbc.enabled then [.kbEnable false] else [] } } t
        [s.cfg.ack] true .normal)

/-- RESEND answers the first `resend_len` bytes of the resend buffer, or NAK where nothing is cached, returns to NORMAL
and writes no other state, the cache included. -/
def Obligations.ResendReplaysTheCache : Prop :=
  decodeData .normal 0xFE = .resend ∧
  ∀ s : State, ∃ t, exec .resend s = .next t ∧
    answered s t
      (if 0 < s.kbc.resendLen then s.kbc.resendBuf.toList.take s.kbc.resendLen else [s.cfg.nak]) false .normal

/-- After a data-port byte whose response was cached, with `dstate` NORMAL, any number of DATA 0xFE each emit exactly that
response and change nothing else. -/
def Obligations.RepeatedResendLaw : Prop :=
  ∀ (base s : State) (resp : List Byte), answered base s resp true .normal → resp ≠ [] → ∀ n : Nat,
    (fun o => match o with
        | .next t => exec (.data 0xFE) t
        | o => o)^[n] (Host.Outcome.next s : Outcome) =
      .next { s with
        out := { s.out with host := s.out.host ++ (List.replicate n (resp.map fun b => (Channel.kbd, b))).flatten } }

/-- The scan-code-set argument: 0 answers ACK and the selected set's number, 1 and 2 select the set and answer ACK, any
other byte is answered NAK, not cached, and changes no set; `dstate` returns to NORMAL in every case. -/
def Obligations.ScanSetArgument : Prop :=
  (∀ b, decodeData .awaitingScancodeSet b = .scansetArg b) ∧
  ∀ s : State,
    (∃ t, exec (.scansetArg 0x00) s = .next t ∧
      answered s t [s.cfg.ack, if s.kbc.codeSet = .set1 then 0x01 else 0x02] true .normal) ∧
    (∃ t, exec (.scansetArg 0x01) s = .next t ∧
      answered { s with kbc := { s.kbc with codeSet := .set1 } } t [s.cfg.ack] true .normal) ∧
    (∃ t, exec (.scansetArg 0x02) s = .next t ∧
      answered { s with kbc := { s.kbc with codeSet := .set2 } } t [s.cfg.ack] true .normal) ∧
    ∀ b : Byte, 2 < b.toNat → ∃ t, exec (.scansetArg b) s = .next t ∧ answered s t [s.cfg.nak] false .normal

/-- The argument bytes with no response on KBD: the command-byte argument writes the controller RAM at `ram_addr`, the
echoed byte goes to channel AUX, the forwarded byte to `aux_out`; `dstate` returns to NORMAL and nothing is cached. -/
def Obligations.SilentArgumentBytes : Prop :=
  (∀ b, decodeData .awaitingCommandByte b = .cmdbyteArg b ∧ decodeData .echoMouse b = .echoMouseArg b ∧
    decodeData .sendToMouse b = .sendToMouseArg b) ∧
  ∀ (s : State) (b : Byte),
    (∃ t, exec (.cmdbyteArg b) s = .next t ∧ answered (writeRam s.kbc.ramAddr b s) t [] false .normal) ∧
    exec (.echoMouseArg b) s = .next { s with
      kbc := { s.kbc with dstate := .normal }, out := { s.out with host := s.out.host ++ [(.aux, b)] }
      ret := some .unit } ∧
    exec (.sendToMouseArg b) s = .next { s with
      kbc := { s.kbc with dstate := .normal }, out := { s.out with aux := s.out.aux ++ [b] }, ret := some .unit }

/-- Every host byte completes on both ports, as the instruction it decodes to in the context of `dstate` (log 20), and never
faults. Neither port touches the rings, the front end, the scanner, the masks, the events, the transport or the keys. -/
def Obligations.EveryHostByteCompletes : Prop :=
  ∀ (s : State) (b : Byte),
    exec (.data b) s = exec (decodeData s.kbc.dstate b).toInstr s ∧
    exec (.cmd b) s = exec (decodeCmd b).toInstr s ∧
    ∀ i ∈ [Instr.data b, Instr.cmd b], ∃ t, exec i s = .next t ∧
      t = { s with kbc := t.kbc, out := { s.out with host := t.out.host, aux := t.out.aux, ctl := t.out.ctl }
                   ret := some .unit }

/-- What a host byte does on either port does not depend on the rings, the scanner, the transport or any other part of
the block: two states that agree on the configuration and the translator stay so, and emit the same. -/
def Obligations.HostBytesSeeOnlyTheTranslator : Prop :=
  ∀ (s u : State) (b : Byte), s.cfg = u.cfg → s.kbc = u.kbc → s.out = u.out →
    ∀ i ∈ [Instr.data b, Instr.cmd b], ∀ t v, exec i s = .next t → exec i u = .next v → t.kbc = v.kbc ∧ t.out = v.out

/-! ## Command port -/

/-- The host bytes that only answer: an unknown byte of either port is answered NAK, RD_RAM answers the RAM byte at its
address, SELF_TEST its constant; no other state is written, `dstate` and the cache included. -/
def Obligations.AnswersWithoutEffect : Prop :=
  (decodeCmd 0xAA = .selfTest ∧ (∀ b, isDnakByte b = true → decodeData .normal b = .dnak b) ∧
    (∀ b, isCnakByte b = true → decodeCmd b = .cnak b) ∧
    ∀ b : Byte, 0x20 ≤ b.toNat ∧ b.toNat ≤ 0x3F → decodeCmd b = .rdRam (b.extractLsb' 0 5)) ∧
  ∀ (s : State) (b : Byte) (a : BitVec 5),
    (∀ i ∈ [Instr.dnak b, Instr.cnak b], exec i s =
      .next { s with out := { s.out with host := s.out.host ++ [(.kbd, s.cfg.nak)] }, ret := some .unit }) ∧
    exec (.rdRam a) s =
      .next { s with out := { s.out with host := s.out.host ++ [(.kbd, memRead a.toNat s.kbc.ram)] }, ret := some .unit } ∧
    exec .selfTest s =
      .next { s with out := { s.out with host := s.out.host ++ [(.kbd, s.cfg.selfTestOk)] }, ret := some .unit }

/-- WR_RAM keeps its address and waits for the value; ECHO_MOUSE and SEND_TO_MOUSE wait for their byte: the next data-port
byte is that argument, whatever its value. Each replaces whatever argument was pending and answers nothing. -/
def Obligations.CommandPortArgumentStates : Prop :=
  ((∀ b : Byte, 0x60 ≤ b.toNat ∧ b.toNat ≤ 0x7F → decodeCmd b = .wrRam (b.extractLsb' 0 5)) ∧
    decodeCmd 0xD3 = .echoMouse ∧ decodeCmd 0xD4 = .sendToMouse ∧
    ∀ b : Byte, decodeData .awaitingCommandByte b = .cmdbyteArg b ∧ decodeData .echoMouse b = .echoMouseArg b ∧
      decodeData .sendToMouse b = .sendToMouseArg b) ∧
  ∀ (s : State) (a : BitVec 5),
    exec (.wrRam a) s =
      .next { s with kbc := { s.kbc with ramAddr := a, dstate := .awaitingCommandByte }, ret := some .unit } ∧
    exec .echoMouse s = .next { s with kbc := { s.kbc with dstate := .echoMouse }, ret := some .unit } ∧
    exec .sendToMouse s = .next { s with kbc := { s.kbc with dstate := .sendToMouse }, ret := some .unit }

/-- DIS_AUX, ENA_AUX, DIS_KBD and ENA_KBD write `ram[0]` with bit 5 or bit 4 set or clear, through `write_ram`, and
answer nothing. -/
def Obligations.CommandByteBitCommands : Prop :=
  (decodeCmd 0xA7 = .disAux ∧ decodeCmd 0xA8 = .enaAux ∧ decodeCmd 0xAD = .disKbd ∧ decodeCmd 0xAE = .enaKbd) ∧
  ∀ s : State,
    exec .disAux s = .next { writeRam 0 (memRead 0 s.kbc.ram ||| 0x20) s with ret := some .unit } ∧
    exec .enaAux s = .next { writeRam 0 (memRead 0 s.kbc.ram &&& 0xDF) s with ret := some .unit } ∧
    exec .disKbd s = .next { writeRam 0 (memRead 0 s.kbc.ram ||| 0x10) s with ret := some .unit } ∧
    exec .enaKbd s = .next { writeRam 0 (memRead 0 s.kbc.ram &&& 0xEF) s with ret := some .unit }

/-- `write_ram(a, v)`: the byte at `a` reads `v` and every other byte reads as before. A write of a byte other than 0
does nothing else. A write of byte 0 sends KBD_IRQ_ENABLE(1) if bit 0 rises, then, if bit 4 changes, gives `kb_enabled`
the complement of bit 4 and sends KB_ENABLE if that changes it, then sends KBD_IRQ_ENABLE(0) if bit 0 falls; so writing the
current value signals nothing. -/
def Obligations.ControllerRamWriteLaw : Prop :=
  ∀ (s : State) (a : BitVec 5) (v : Byte),
    (∃ m : Mem,
      (∀ j, memRead j m = if j = a.toNat then v else memRead j s.kbc.ram) ∧
      (a ≠ 0 → writeRam a v s = { s with kbc := { s.kbc with ram := m } }) ∧
      (a = 0 →
        let old := memRead 0 s.kbc.ram
        let on := if old.getLsbD 4 = v.getLsbD 4 then s.kbc.enabled else !v.getLsbD 4
        writeRam a v s = { s with
          kbc := { s.kbc with ram := m, enabled := on }
          out := { s.out with ctl := s.out.ctl ++
            ((if old.getLsbD 0 = false ∧ v.getLsbD 0 = true then [.kbdIrqEnable true] else []) ++
             (if s.kbc.enabled = on then [] else [.kbEnable on]) ++
             (if old.getLsbD 0 = true ∧ v.getLsbD 0 = false then [.kbdIrqEnable false] else [])) } })) ∧
    (writeRam 0 (memRead 0 s.kbc.ram) s).out = s.out

/-! ## Translation -/

/-- KEY_EVENT inside the matrix: with no table entry in the effective set it answers UNIMPLEMENTED, enabled or not; with
one and the keyboard disabled, DROPPED_DISABLED; neither emits. Otherwise it emits the key's bytes on KBD and answers OK.
The effective set is Set 1 while bit 6 of `ram[0]` is set, and the selected set otherwise. Nothing else is written. -/
def Obligations.KeyEventEmitsItsCode : Prop :=
  ∀ (s : State) (row : Fin 8) (col : Byte) (p : Bool), col.toNat < s.cfg.ncol →
    let eff := if (memRead 0 s.kbc.ram).getLsbD 6 = true then CodeSet.set1 else s.kbc.codeSet
    (makeCode s.cfg eff row col.toNat = none →
      exec (.keyEvent row col p) s = .next { s with ret := some (.status .unimplemented) }) ∧
    (∀ m, makeCode s.cfg eff row col.toNat = some m → s.kbc.enabled = false →
      exec (.keyEvent row col p) s = .next { s with ret := some (.status .droppedDisabled) }) ∧
    (∀ m, makeCode s.cfg eff row col.toNat = some m → s.kbc.enabled = true →
      exec (.keyEvent row col p) s = .next { s with
        out := { s.out with host :=
          s.out.host ++ (codeBytes s.cfg.breakOrder m eff p).map fun b => (Channel.kbd, b) }
        ret := some (.status .ok) })

/-- The bytes of a key event: a press is the make code; a release sets bit 7 of the last byte in Set 1, and in Set 2 puts
0xF0 before the make code, or, for a two-byte code under PREFIX_FIRST, between its bytes. -/
def Obligations.BreakCodesBySet : Prop :=
  ∀ (m p : Byte) (o : BreakOrder) (cs : CodeSet),
    codeBytes o (.one m) cs true = [m] ∧ codeBytes o (.two p m) cs true = [p, m] ∧
    codeBytes o (.one m) .set1 false = [m ||| 0x80] ∧ codeBytes o (.one m) .set2 false = [0xF0, m] ∧
    codeBytes o (.two p m) .set1 false = [p, m ||| 0x80] ∧
    codeBytes .doc (.two p m) .set2 false = [0xF0, p, m] ∧
    codeBytes .prefixFirst (.two p m) .set2 false = [p, 0xF0, m]

/-! ## Scanner -/

/-- `sample_rows()`: bit `r` is 0 exactly when a closed switch of row `r` is on a driven column: the one column under
COL(c), some column of the matrix under ASSERT_ALL, none under TRISTATE_ALL. -/
def Obligations.SampledRowsAreTheClosedSwitches : Prop :=
  ∀ (s : State) (r : Fin 8),
    (∀ c, s.scan.drive = .col c → c < s.cfg.ncol →
      ((sampleRows s).getLsbD r.val = false ↔ (memRead c s.keys).getLsbD r.val = true)) ∧
    (s.scan.drive = .assertAll →
      ((sampleRows s).getLsbD r.val = false ↔ ∃ c, c < s.cfg.ncol ∧ (memRead c s.keys).getLsbD r.val = true)) ∧
    (s.scan.drive = .tristateAll → (sampleRows s).getLsbD r.val = true)

/-- KEY_SET inside the matrix opens or closes that one switch, and latches the row-change request exactly when the
interrupt is enabled and the rows now differ from the armed level; a latched request stays. -/
def Obligations.KeySetMovesOneSwitch : Prop :=
  ∀ (s : State) (row : Fin 8) (col : Byte) (v : Bool), col.toNat < s.cfg.ncol → ∃ (m : Mem) (q : Bool),
    exec (.keySet row col v) s =
      .next { s with keys := m, scan := { s.scan with irqPending := q }, ret := some .unit } ∧
    (∀ (j : Nat) (r : Fin 8), (memRead j m).getLsbD r.val =
      if j = col.toNat ∧ r = row then v else (memRead j s.keys).getLsbD r.val) ∧
    (q = true ↔ s.scan.irqPending = true ∨
      (s.scan.irqEn = true ∧ sampleRows { s with keys := m } ≠ s.scan.rowsAtArm))

/-- SCAN.COL on column `c`: its new state byte is the inverted sample masked to the valid keys; each row that differs
from `prev[c]` is reported once, rows ascending, a press where the new bit is 1, with the translator's answer to that
event and the bytes it emits for it, in the same order; `prev[c]` takes the new byte whatever the translator answered, no
other column's does, and the next column is due. -/
def Obligations.ScanColumnReportsExactlyTheEdges : Prop :=
  ∀ s : State, s.scan.state = .polling → s.scan.col < s.cfg.ncol →
    agentStepOf .scan s = some .scanCol ∧
    let c := s.scan.col
    let st := memRead c s.keys &&& s.cfg.validMask.getD c 0
    let rows := (List.finRange 8).filter fun r => st.getLsbD r.val != (memRead c s.scan.prev).getLsbD r.val
    let t := runAgentStep .scanCol s
    t.out.edges = s.out.edges ++ rows.map (fun r =>
      { row := r, col := c, pressed := st.getLsbD r.val, status := (Machine.translate r c (st.getLsbD r.val) s).1 }) ∧
    t.out.host = s.out.host ++ rows.flatMap (fun r =>
      (Machine.translate r c (st.getLsbD r.val) { s with out := { s.out with host := [] } }).2.out.host) ∧
    (∀ j, memRead j t.scan.prev = if j = c then st else memRead j s.scan.prev) ∧
    t = { s with
          scan := { s.scan with prev := t.scan.prev, col := c + 1, drive := .col c }
          out := { s.out with host := t.out.host, edges := t.out.edges } }

/-- SCAN.END: a pass with every `prev` byte 0 counts one more idle pass, any other resets the count; at the limit the
scanner arms (every column driven, the rows sampled, the request cleared, the interrupt enabled, waiting), and otherwise
the next pass begins at column 0 with the columns tri-stated. Under REPOLL_AFTER_ARM, with a row active at arming, it goes
back to polling with the interrupt off and the columns tri-stated. -/
def Obligations.ScanEndCountsOrArms : Prop :=
  ∀ s : State, s.scan.state = .polling → s.scan.col = s.cfg.ncol →
    agentStepOf .scan s = some .scanEnd ∧
    ∀ n, (((∀ c, c < s.cfg.ncol → memRead c s.scan.prev = 0) ∧ n = s.scan.idle + 1) ∨
        ((∃ c, c < s.cfg.ncol ∧ memRead c s.scan.prev ≠ 0) ∧ n = 0)) →
      (n < s.cfg.pollIdleLimit →
        runAgentStep .scanEnd s = { s with scan := { s.scan with drive := .tristateAll, idle := n, col := 0 } }) ∧
      (s.cfg.pollIdleLimit ≤ n →
        let rows := sampleRows { s with scan := { s.scan with drive := .assertAll } }
        let armed := { s.scan with
          drive := .assertAll, rowsAtArm := rows, irqPending := false, irqEn := true
          state := .waitingForInterrupt, col := 0, idle := 0 }
        runAgentStep .scanEnd s =
          if s.cfg.repollAfterArm = true ∧ rows ≠ 0xFF then
            { s with scan := { armed with irqEn := false, state := .polling, drive := .tristateAll } }
          else { s with scan := armed })

/-- ISR_ROW steps exactly when the row interrupt is enabled and a request is latched; it disables the interrupt, clears
the request and posts `ev_kbwake`. A waiting scanner steps exactly when that event is posted; it consumes it and polls
from column 0 with the columns tri-stated and no idle pass counted, `prev` kept. -/
def Obligations.RowInterruptWakesTheScanner : Prop :=
  ∀ s : State,
    (agentStepOf .isrRow s = some .isrRow ↔ s.scan.irqEn = true ∧ s.scan.irqPending = true) ∧
    runAgentStep .isrRow s =
      { s with scan := { s.scan with irqEn := false, irqPending := false }, evKbwake := true } ∧
    (s.scan.state = .waitingForInterrupt →
      (agentStepOf .scan s = some .scanWake ↔ s.evKbwake = true) ∧
      (s.evKbwake = false → agentStepOf .scan s = none)) ∧
    runAgentStep .scanWake s =
      { s with evKbwake := false
               scan := { s.scan with state := .polling, drive := .tristateAll, col := 0, idle := 0 } }

/-- Waiting is a hold: on every step but a reset a waiting scanner stays waiting, or the step was SCAN.WAKE, taken with the
wake event posted, at SCAN's turn where a turn is listed. So no transaction and no other agent ends it, whether the event is
posted or not. The turn listed first is used up, and a free choice of agent may be drawn (log 1). -/
def Obligations.WaitingEndsOnlyByWake : Prop :=
  ∀ s t : State, step s = .next t → s.scan.state = .waitingForInterrupt → s.turns.head? ≠ some .reset →
    t.scan.state = .waitingForInterrupt ∨
      (s.evKbwake = true ∧ (∀ a, s.turns.head? = some (.agent a) → a = .scan) ∧
        ∃ d, t = runAgentStep .scanWake { s with turns := s.turns.tail, draws := d })

/-! ## The whole machine -/

/-- Each register named here is written, among the transactions, by its own instructions only: the masks by MASK and
UNMASK, `tx_mode` by SET_MODE, `code_set` by the set argument, `ram_addr` by WR_RAM, the keys by KEY_SET; and no
transaction writes `row_irq_en`, `prev`, `scan_state`, `scan_col`, `idle_count`, `col_drive`, `rows_at_arm`,
`ev_kbwake`, `tx_wire`, `edge_log` or `rx_dropped`. A DATA word's writer is the instruction it decodes to. -/
def Obligations.RegistersHaveTheirWriters : Prop :=
  ∀ (i : Instr) (s t : State), exec i s = .next t →
    (t.maskRx ≠ s.maskRx → i = .maskRx ∨ i = .unmaskRx) ∧ (t.maskTx ≠ s.maskTx → i = .maskTx ∨ i = .unmaskTx) ∧
    (t.front.mode ≠ s.front.mode → i = .setModeRaw ∨ i = .setModeConsole) ∧
    (t.kbc.codeSet ≠ s.kbc.codeSet → ∃ b, i = .scansetArg b ∨ (i = .data b ∧ s.kbc.dstate = .awaitingScancodeSet)) ∧
    (t.kbc.ramAddr ≠ s.kbc.ramAddr → ∃ a, i = .wrRam a ∨ ∃ b, i = .cmd b ∧ decodeCmd b = .wrRam a) ∧
    (t.keys ≠ s.keys → ∃ row col v, i = .keySet row col v) ∧
    t.scan = { s.scan with irqPending := t.scan.irqPending } ∧ t.evKbwake = s.evKbwake ∧
    t.out = { s.out with host := t.out.host, aux := t.out.aux, ctl := t.out.ctl }

/-- No step changes the configuration, and every step keeps the storage invariant: an admitted configuration, both rings
in bounds, every byte space in canonical form inside its size. The canonical form is the model's representation of a byte
space (log 19), and the configuration as a part of the state its choice (log 4). -/
def Obligations.StorageInvariantKept : Prop :=
  ∀ s t : State, step s = .next t → t.cfg = s.cfg ∧ (storageOk s = true → storageOk t = true)

/-- No step of a block with its rings in bounds raises FAULT_INVARIANT, the outcome of the model's check after every step
(log 16). -/
def Obligations.InvariantFaultIsUnreachable : Prop :=
  ∀ s t : State, s.cfg.wf = true → ringsInBounds s = true → s.fault = none → step s = .next t →
    ∀ f, t.fault = some f → f.code ≠ .invariant

/-- The scanner's invariant is kept by every step: what its two states say of the drive, the interrupt and the wake
event; no row change is lost while armed; and `prev` holds valid keys only. -/
def Obligations.ScannerInvariantKept : Prop :=
  ∀ s t : State, scannerOk s = true → step s = .next t →
    scannerOk t = true ∧ (prevMasked s = true → prevMasked t = true)

/-- Control events are sent on actual transitions only, on every step: the events of each kind alternate and the last one
tells the level of its enable (10_state.md sections 4 and 9); the resend buffer never holds more than three bytes
(10_state.md section 5); and TASK never has a line feed and a wait in progress at once (40_ring_engine.md section 4,
45_control.md section 1), the wait being the model's own field (log 12). -/
def Obligations.SignalsFollowTheEnables : Prop :=
  ∀ s t : State, step s = .next t →
    (signalsOk s = true → signalsOk t = true) ∧ (resendOk s = true → resendOk t = true) ∧
      (taskOk s = true → taskOk t = true)

/-- The state after reset satisfies every invariant, for every admitted configuration and every key matrix in canonical form.
The canonical form of the byte spaces, in the premise and in the conclusion, is the model's representation (log 19); that no
wait is in progress at reset is the reset value of the model's own field (log 12, log 29). -/
def Obligations.ResetStateIsGood : Prop :=
  ∀ (c : Params) (keys : Mem), c.wf = true → Memory.wf c.ncol keys = true →
    storageOk (State.initial c keys) = true ∧ scannerOk (State.initial c keys) = true ∧
    prevMasked (State.initial c keys) = true ∧ signalsOk (State.initial c keys) = true ∧
    resendOk (State.initial c keys) = true ∧ taskOk (State.initial c keys) = true

/-- After a fault no agent takes a step: the machine answers that it has halted, with the record, and nothing but a reset
turn changes it (log 14, log 18). Reset clears the fault and gives every register the value of the reset table, with no
ring slot listed as written (log 9), keeping the configuration and the key matrix. -/
def Obligations.OnlyResetLeavesAFault : Prop :=
  (∀ (s : State) (f : FaultRecord), s.fault = some f → s.turns.head? ≠ some .reset → step s = .fault (.halted f)) ∧
  ∀ (s : State) (ts : List Turn), s.turns = .reset :: ts → ∃ t, step s = .next t ∧
    t.cfg = s.cfg ∧ t.keys = s.keys ∧ t.fault = none ∧
    t.tx.head = 0 ∧ t.tx.tail = 0 ∧ t.rx.head = 0 ∧ t.rx.tail = 0 ∧ t.tx.data = [] ∧ t.rx.data = [] ∧
    t.front = { mode := .console, lfPending := false, ok := false } ∧ t.maskRx = false ∧ t.maskTx = false ∧
    (∀ a, memRead a t.kbc.ram = if a = 0 then 0x70 else 0) ∧ t.kbc.enabled = false ∧ t.kbc.codeSet = .set2 ∧
    t.kbc.dstate = .normal ∧ t.kbc.ramAddr = 0 ∧ t.kbc.resendLen = 0 ∧
    (∀ c, memRead c t.scan.prev = 0) ∧ t.scan.state = .polling ∧ t.scan.col = 0 ∧ t.scan.idle = 0 ∧
    t.scan.drive = .tristateAll ∧ t.scan.irqEn = false ∧ t.scan.irqPending = false ∧
    t.evInput = false ∧ t.evKbwake = false ∧ t.port.rxPending = false ∧ t.port.txReady = true ∧
    t.out = { host := [], aux := [], ctl := [], wire := [], edges := [], rxDropped := 0 }

/-- A run of a good block with no fault is over exactly when no transaction is left to issue and no agent has an enabled
step, TASK included: it has no line feed pending, and a WAIT_INPUT in progress is a hold that only `ev_input` can end (no
event posted, no timeout open; log 30). -/
def Obligations.RunIsOverWhenNothingIsEnabled : Prop :=
  ∀ s : State, scannerOk s = true → s.fault = none →
    (runOver s = true ↔ s.inputs = [] ∧ ∀ a : Agent, agentStepOf a s = none)
end

