-- ==== Sys2Proof/Laws/Encoding.lean ====
section
/-! SUPPORT. The fields of a transaction word, of a controller-RAM byte and of a key position: what each field of a built
word is, and that a word is its fields (30_encoding.md R110, R117, R123). -/

namespace Sys2Proof

section
variable (u o : BitVec 4) (a : Field16) (b : Byte)

@[simp] theorem unitField_mkWord : unitField (mkWord u o a b) = u := by
  apply BitVec.eq_of_getLsbD_eq
  intro i hi
  simp only [unitField, mkWord, BitVec.getLsbD_extractLsb', BitVec.getLsbD_or, BitVec.getLsbD_shiftLeft, BitVec.getLsbD_setWidth]
  interval_cases i <;> simp

@[simp] theorem opField_mkWord : opField (mkWord u o a b) = o := by
  apply BitVec.eq_of_getLsbD_eq
  intro i hi
  simp only [opField, mkWord, BitVec.getLsbD_extractLsb', BitVec.getLsbD_or, BitVec.getLsbD_shiftLeft, BitVec.getLsbD_setWidth]
  interval_cases i <;> simp

@[simp] theorem aField_mkWord : aField (mkWord u o a b) = a := by
  apply BitVec.eq_of_getLsbD_eq
  intro i hi
  simp only [aField, mkWord, BitVec.getLsbD_extractLsb', BitVec.getLsbD_or, BitVec.getLsbD_shiftLeft, BitVec.getLsbD_setWidth]
  interval_cases i <;> simp

@[simp] theorem bField_mkWord : bField (mkWord u o a b) = b := by
  apply BitVec.eq_of_getLsbD_eq
  intro i hi
  simp only [bField, mkWord, BitVec.getLsbD_extractLsb', BitVec.getLsbD_or, BitVec.getLsbD_shiftLeft, BitVec.getLsbD_setWidth]
  interval_cases i <;> simp

theorem mkWord_fields (w : Word) : mkWord (unitField w) (opField w) (aField w) (bField w) = w := by
  apply BitVec.eq_of_getLsbD_eq
  intro i hi
  simp only [unitField, opField, aField, bField, mkWord, BitVec.getLsbD_extractLsb', BitVec.getLsbD_or, BitVec.getLsbD_shiftLeft, BitVec.getLsbD_setWidth]
  interval_cases i <;> simp

end

@[simp] theorem ramByte_sel (sel : BitVec 3) (a : BitVec 5) : (ramByte sel a).extractLsb' 5 3 = sel := by
  apply BitVec.eq_of_getLsbD_eq
  intro i hi
  simp only [ramByte, BitVec.getLsbD_extractLsb', BitVec.getLsbD_or, BitVec.getLsbD_shiftLeft, BitVec.getLsbD_setWidth]
  interval_cases i <;> simp

@[simp] theorem ramByte_addr (sel : BitVec 3) (a : BitVec 5) : (ramByte sel a).extractLsb' 0 5 = a := by
  apply BitVec.eq_of_getLsbD_eq
  intro i hi
  simp only [ramByte, BitVec.getLsbD_extractLsb', BitVec.getLsbD_or, BitVec.getLsbD_shiftLeft, BitVec.getLsbD_setWidth]
  interval_cases i <;> simp

theorem ramByte_fields (b : Byte) : ramByte (b.extractLsb' 5 3) (b.extractLsb' 0 5) = b := by
  apply BitVec.eq_of_getLsbD_eq
  intro i hi
  simp only [ramByte, BitVec.getLsbD_extractLsb', BitVec.getLsbD_or, BitVec.getLsbD_shiftLeft, BitVec.getLsbD_setWidth]
  interval_cases i <;> simp

@[simp] theorem keyA_row (row : Fin 8) (col : Byte) : ((keyA row col).extractLsb' 0 8).toNat = row.val := by
  have : (keyA row col).extractLsb' 0 8 = BitVec.ofNat 8 row.val := by
    apply BitVec.eq_of_getLsbD_eq
    intro i hi
    simp only [keyA, BitVec.getLsbD_extractLsb', BitVec.getLsbD_or, BitVec.getLsbD_shiftLeft, BitVec.getLsbD_setWidth, BitVec.getLsbD_ofNat]
    interval_cases i <;> simp
  rw [this, BitVec.toNat_ofNat]; omega

@[simp] theorem keyA_col (row : Fin 8) (col : Byte) : (keyA row col).extractLsb' 8 8 = col := by
  apply BitVec.eq_of_getLsbD_eq
  intro i hi
  have hr : ∀ k, 8 ≤ k → row.val.testBit k = false := fun k hk =>
    Nat.testBit_lt_two_pow (lt_of_lt_of_le row.isLt (by calc 8 = 2^3 := rfl
      _ ≤ 2^k := Nat.pow_le_pow_right (by omega) (by omega)))
  simp only [keyA, BitVec.getLsbD_extractLsb', BitVec.getLsbD_or, BitVec.getLsbD_shiftLeft, BitVec.getLsbD_setWidth, BitVec.getLsbD_ofNat]
  interval_cases i <;> simp [hr]

@[simp] theorem keyB_value (v : Bool) : (keyB v).getLsbD 0 = v := by cases v <;> rfl

@[simp] theorem keyB_zero (v : Bool) : (keyB v).extractLsb' 1 7 = 0 := by cases v <;> rfl

/-- A key position's row and column fields are all of `A`. -/
theorem keyA_fields (a : Field16) (h : (a.extractLsb' 0 8).toNat < 8) :
    keyA ⟨(a.extractLsb' 0 8).toNat, h⟩ (a.extractLsb' 8 8) = a := by
  have hr : BitVec.ofNat 16 (a.extractLsb' 0 8).toNat = (a.extractLsb' 0 8).setWidth 16 := by
    apply BitVec.eq_of_toNat_eq
    simp [BitVec.toNat_setWidth]
  simp only [keyA, hr]
  apply BitVec.eq_of_getLsbD_eq
  intro i hi
  simp only [BitVec.getLsbD_extractLsb', BitVec.getLsbD_or, BitVec.getLsbD_shiftLeft, BitVec.getLsbD_setWidth]
  interval_cases i <;> simp

/-- A value field with `B[7:1]` zero is its bit 0. -/
theorem keyB_fields (b : Byte) (h : b.extractLsb' 1 7 = 0) : keyB (b.getLsbD 0) = b := by
  revert h; revert b; decide

/-- The operand fields of a key position decode back. -/
@[simp] theorem keyOperands_fields (row : Fin 8) (col : Byte) (v : Bool) (mk : Fin 8 → Byte → Bool → Instr) :
    keyOperands (keyA row col) (keyB v) mk = .ok (mk row col v) := by
  have h := keyA_row row col
  unfold keyOperands
  rw [if_pos (keyB_zero v), dif_pos (by rw [h]; exact row.isLt)]
  simp only [h, keyA_col, keyB_value]

/-- Decoded operand fields of a key position are those of the position decoded. -/
theorem keyOperands_ok {a : Field16} {b : Byte} {mk : Fin 8 → Byte → Bool → Instr} {i : Instr}
    (h : keyOperands a b mk = .ok i) :
    ∃ row col v, i = mk row col v ∧ a = keyA row col ∧ b = keyB v := by
  unfold keyOperands at h
  split at h
  · split at h
    · rename_i hb hr
      cases h
      exact ⟨_, _, _, rfl, (keyA_fields a hr).symm, (keyB_fields b hb).symm⟩
    · cases h
  · cases h

/-- Masking a word masks its fields. -/
theorem mkWord_and (u o u' o' : BitVec 4) (a a' : Field16) (b b' : Byte) :
    mkWord u o a b &&& mkWord u' o' a' b' = mkWord (u &&& u') (o &&& o') (a &&& a') (b &&& b') := by
  apply BitVec.eq_of_getLsbD_eq
  intro i hi
  simp only [mkWord, BitVec.getLsbD_and, BitVec.getLsbD_or, BitVec.getLsbD_shiftLeft, BitVec.getLsbD_setWidth]
  interval_cases i <;> simp

/-- Words with equal fields are equal, and conversely. -/
theorem mkWord_inj (u o u' o' : BitVec 4) (a a' : Field16) (b b' : Byte) :
    mkWord u o a b = mkWord u' o' a' b' ↔ u = u' ∧ o = o' ∧ a = a' ∧ b = b' := by
  constructor
  · intro h
    exact ⟨by simpa using congrArg unitField h, by simpa using congrArg opField h,
      by simpa using congrArg aField h, by simpa using congrArg bField h⟩
  · rintro ⟨rfl, rfl, rfl, rfl⟩
    rfl

end Sys2Proof
end

