-- ==== Sys2Proof/Laws/Memory.lean ====
section
/-! SUPPORT. The laws of a byte space: what a read after a write answers, and that every memory operation keeps the
canonical form. -/

namespace Sys2Proof.Machine

/-! ## Read after write -/

/-- What is listed at `j` after an insertion at `a`. -/
theorem memFind_memInsert (a j : Nat) (b : Byte) (m : Mem) :
    memFind j (memInsert a b m) = if j = a then some b else memFind j m := by
  induction m with
  | nil => simp [memInsert, memFind, eq_comm]
  | cons c m ih =>
    obtain ⟨k, v⟩ := c
    simp only [memInsert]
    split
    · by_cases h : j = a
      · simp [memFind, h]
      · simp [memFind, h, Ne.symm h]
    · split
      · subst_vars
        by_cases h : j = k
        · simp [memFind, h]
        · simp [memFind, h, Ne.symm h]
      · by_cases h : k = j
        · have : j ≠ a := by omega
          simp [memFind, h, this]
        · simp [memFind, h, ih]

/-- What is listed at `j` after an erasure at `a`. -/
theorem memFind_memErase (a j : Nat) (m : Mem) :
    memFind j (memErase a m) = if j = a then none else memFind j m := by
  induction m with
  | nil => simp [memErase, memFind]
  | cons c m ih =>
    obtain ⟨k, v⟩ := c
    simp only [memErase]
    split
    · subst_vars
      by_cases h : j = k
      · rw [ih, if_pos h, if_pos h]
      · simp [memFind, h, ih, Ne.symm h]
    · by_cases h : k = j
      · have : j ≠ a := by omega
        simp [memFind, h, this]
      · simp [memFind, h, ih]

/-- A read of a space with reset contents 0, after a write. -/
theorem memRead_memWrite (a j : Nat) (b : Byte) (m : Mem) :
    memRead j (memWrite a b m) = if j = a then b else memRead j m := by
  unfold memRead memWrite
  split
  · rw [memFind_memErase]
    split <;> simp_all
  · rw [memFind_memInsert]
    split <;> simp_all

@[simp] theorem memRead_nil (a : Nat) : memRead a [] = 0 := rfl

/-! ## Canonical form -/

theorem memRising_mono {lo hi : Nat} (h : lo ≤ hi) : ∀ {m : Mem}, memRising hi m = true → memRising lo m = true
  | [], _ => rfl
  | (k, v) :: m, hm => by
    simp only [memRising, Bool.and_eq_true, decide_eq_true_eq] at hm ⊢
    exact ⟨by omega, hm.2⟩

theorem memRising_memInsert {a : Nat} {b : Byte} :
    ∀ {lo : Nat} {m : Mem}, lo ≤ a → memRising lo m = true → memRising lo (memInsert a b m) = true
  | lo, [], h, _ => by simp [memInsert, memRising, h]
  | lo, (k, v) :: m, h, hm => by
    simp only [memRising, Bool.and_eq_true, decide_eq_true_eq] at hm
    simp only [memInsert]
    split
    · rename_i hk
      simp only [memRising, Bool.and_eq_true, decide_eq_true_eq]
      exact ⟨h, by omega, hm.2⟩
    · split
      · subst_vars
        simpa [memRising, h] using hm.2
      · rename_i h1 h2
        simp only [memRising, Bool.and_eq_true, decide_eq_true_eq]
        exact ⟨hm.1, memRising_memInsert (by omega) hm.2⟩

theorem memRising_memErase {a : Nat} :
    ∀ {lo : Nat} {m : Mem}, memRising lo m = true → memRising lo (memErase a m) = true
  | lo, [], _ => rfl
  | lo, (k, v) :: m, hm => by
    simp only [memRising, Bool.and_eq_true, decide_eq_true_eq] at hm
    simp only [memErase]
    split
    · exact memRising_mono (by omega) (memRising_memErase hm.2)
    · simp only [memRising, Bool.and_eq_true, decide_eq_true_eq]
      exact ⟨hm.1, memRising_memErase hm.2⟩

/-- Every listed pair after an insertion is the new one or was listed before. -/
theorem mem_memInsert {a : Nat} {b : Byte} {c : Host.Cell} :
    ∀ {m : Mem}, c ∈ memInsert a b m → c = (a, b) ∨ c ∈ m
  | [], h => by simpa [memInsert] using h
  | (k, v) :: m, h => by
    simp only [memInsert] at h
    split at h
    · simpa using h
    · split at h
      · rcases List.mem_cons.1 h with h | h
        · exact .inl h
        · exact .inr (List.mem_cons_of_mem _ h)
      · rcases List.mem_cons.1 h with h | h
        · exact .inr (h ▸ List.mem_cons_self ..)
        · rcases mem_memInsert h with h | h
          · exact .inl h
          · exact .inr (List.mem_cons_of_mem _ h)

/-- Every listed pair after an erasure was listed before. -/
theorem mem_memErase {a : Nat} {c : Host.Cell} : ∀ {m : Mem}, c ∈ memErase a m → c ∈ m
  | [], h => h
  | (k, v) :: m, h => by
    simp only [memErase] at h
    split at h
    · exact List.mem_cons_of_mem _ (mem_memErase h)
    · rcases List.mem_cons.1 h with h | h
      · exact h ▸ List.mem_cons_self ..
      · exact List.mem_cons_of_mem _ (mem_memErase h)

/-- A slot write below the capacity keeps a ring's storage canonical. -/
theorem slotsWf_memInsert {size a : Nat} {b : Byte} {m : Mem} (ha : a < size) (h : slotsWf size m = true) :
    slotsWf size (memInsert a b m) = true := by
  simp only [slotsWf, Bool.and_eq_true, List.all_eq_true, decide_eq_true_eq] at h ⊢
  refine ⟨memRising_memInsert (by omega) h.1, fun c hc => ?_⟩
  rcases mem_memInsert hc with rfl | hc
  · exact ha
  · exact h.2 c hc

/-- A write below the size keeps the RAM, `prev` and the key matrix canonical. -/
theorem wf_memWrite {size a : Nat} {b : Byte} {m : Mem} (ha : a < size) (h : Memory.wf size m = true) :
    Memory.wf size (memWrite a b m) = true := by
  simp only [Memory.wf, slotsWf, Bool.and_eq_true, List.all_eq_true, decide_eq_true_eq] at h ⊢
  unfold memWrite
  split
  · exact ⟨⟨memRising_memErase h.1.1, fun c hc => h.1.2 c (mem_memErase hc)⟩, fun c hc => h.2 c (mem_memErase hc)⟩
  · rename_i hb
    refine ⟨⟨memRising_memInsert (by omega) h.1.1, fun c hc => ?_⟩, fun c hc => ?_⟩
    · rcases mem_memInsert hc with rfl | hc
      · exact ha
      · exact h.1.2 c hc
    · rcases mem_memInsert hc with rfl | hc
      · simpa using hb
      · exact h.2 c hc

theorem memFind_of_memRising {j : Nat} : ∀ {lo : Nat} {m : Mem}, memRising lo m = true → j < lo → memFind j m = none
  | _, [], _, _ => rfl
  | lo, (k, v) :: m, hm, hj => by
    simp only [memRising, Bool.and_eq_true, decide_eq_true_eq] at hm
    have hk : k ≠ j := by omega
    simp only [memFind, hk, if_false]
    exact memFind_of_memRising hm.2 (by omega)

/-- Two canonical spaces that read the same at every address are the same list. -/
theorem eq_of_memFind_eq : ∀ {lo : Nat} {m n : Mem}, memRising lo m = true → memRising lo n = true →
    (∀ j, memFind j m = memFind j n) → m = n
  | _, [], [], _, _, _ => rfl
  | _, [], (k, v) :: n, _, _, h => by simpa [memFind] using h k
  | _, (k, v) :: m, [], _, _, h => by simpa [memFind] using h k
  | lo, (k, v) :: m, (l, w) :: n, hm, hn, h => by
    simp only [memRising, Bool.and_eq_true, decide_eq_true_eq] at hm hn
    have hkl : k = l := by
      rcases Nat.lt_trichotomy k l with hlt | heq | hgt
      · have h1 := h k
        have h2 : l ≠ k := by omega
        simp only [memFind, if_true, h2, if_false, memFind_of_memRising hn.2 (by omega : k < l + 1)] at h1
        exact absurd h1 (by simp)
      · exact heq
      · have h1 := h l
        have h2 : k ≠ l := by omega
        simp only [memFind, if_true, h2, if_false, memFind_of_memRising hm.2 (by omega : l < k + 1)] at h1
        exact absurd h1 (by simp)
    subst hkl
    have hv : v = w := by simpa [memFind] using h k
    subst hv
    have : m = n := eq_of_memFind_eq hm.2 hn.2 fun j => by
      by_cases hj : k = j
      · subst hj
        rw [memFind_of_memRising hm.2 (by omega), memFind_of_memRising hn.2 (by omega)]
      · simpa [memFind, hj] using h j
    rw [this]

/-- The memory of the state after reset is in canonical form. -/
theorem reset_memories_wf :
    slotsWf State.reset.cfg.capTx State.reset.tx.data = true ∧ slotsWf State.reset.cfg.capRx State.reset.rx.data = true ∧
      Memory.wf 32 State.reset.kbc.ram = true ∧ Memory.wf State.reset.cfg.ncol State.reset.scan.prev = true ∧
      Memory.wf State.reset.cfg.ncol State.reset.keys = true := by
  decide

end Sys2Proof.Machine
end

