-- ==== Sys2Proof/Laws/State.lean ====
section
/-! SUPPORT. One lemma per field of State per named update, so that no proof unfolds a record update. -/

namespace Sys2Proof.Machine

/-! ## returns -/

section
variable (s : State) (v : Ret)
@[simp] theorem returns_cfg : (returns v s).cfg = s.cfg := rfl
@[simp] theorem returns_tx : (returns v s).tx = s.tx := rfl
@[simp] theorem returns_rx : (returns v s).rx = s.rx := rfl
@[simp] theorem returns_front : (returns v s).front = s.front := rfl
@[simp] theorem returns_maskRx : (returns v s).maskRx = s.maskRx := rfl
@[simp] theorem returns_maskTx : (returns v s).maskTx = s.maskTx := rfl
@[simp] theorem returns_kbc : (returns v s).kbc = s.kbc := rfl
@[simp] theorem returns_scan : (returns v s).scan = s.scan := rfl
@[simp] theorem returns_evInput : (returns v s).evInput = s.evInput := rfl
@[simp] theorem returns_evKbwake : (returns v s).evKbwake = s.evKbwake := rfl
@[simp] theorem returns_port : (returns v s).port = s.port := rfl
@[simp] theorem returns_keys : (returns v s).keys = s.keys := rfl
@[simp] theorem returns_fault : (returns v s).fault = s.fault := rfl
@[simp] theorem returns_out : (returns v s).out = s.out := rfl
@[simp] theorem returns_ret : (returns v s).ret = some v := rfl
@[simp] theorem returns_wait : (returns v s).wait = s.wait := rfl
@[simp] theorem returns_inputs : (returns v s).inputs = s.inputs := rfl
@[simp] theorem returns_turns : (returns v s).turns = s.turns := rfl
@[simp] theorem returns_draws : (returns v s).draws = s.draws := rfl
end

/-! ## inProgress -/

section
variable (s : State)
@[simp] theorem inProgress_cfg : (inProgress s).cfg = s.cfg := rfl
@[simp] theorem inProgress_tx : (inProgress s).tx = s.tx := rfl
@[simp] theorem inProgress_rx : (inProgress s).rx = s.rx := rfl
@[simp] theorem inProgress_front : (inProgress s).front = s.front := rfl
@[simp] theorem inProgress_maskRx : (inProgress s).maskRx = s.maskRx := rfl
@[simp] theorem inProgress_maskTx : (inProgress s).maskTx = s.maskTx := rfl
@[simp] theorem inProgress_kbc : (inProgress s).kbc = s.kbc := rfl
@[simp] theorem inProgress_scan : (inProgress s).scan = s.scan := rfl
@[simp] theorem inProgress_evInput : (inProgress s).evInput = s.evInput := rfl
@[simp] theorem inProgress_evKbwake : (inProgress s).evKbwake = s.evKbwake := rfl
@[simp] theorem inProgress_port : (inProgress s).port = s.port := rfl
@[simp] theorem inProgress_keys : (inProgress s).keys = s.keys := rfl
@[simp] theorem inProgress_fault : (inProgress s).fault = s.fault := rfl
@[simp] theorem inProgress_out : (inProgress s).out = s.out := rfl
@[simp] theorem inProgress_ret : (inProgress s).ret = none := rfl
@[simp] theorem inProgress_wait : (inProgress s).wait = s.wait := rfl
@[simp] theorem inProgress_inputs : (inProgress s).inputs = s.inputs := rfl
@[simp] theorem inProgress_turns : (inProgress s).turns = s.turns := rfl
@[simp] theorem inProgress_draws : (inProgress s).draws = s.draws := rfl
end

/-! ## drawn -/

section
variable (s : State)
@[simp] theorem drawn_cfg : (drawn s).cfg = s.cfg := rfl
@[simp] theorem drawn_tx : (drawn s).tx = s.tx := rfl
@[simp] theorem drawn_rx : (drawn s).rx = s.rx := rfl
@[simp] theorem drawn_front : (drawn s).front = s.front := rfl
@[simp] theorem drawn_maskRx : (drawn s).maskRx = s.maskRx := rfl
@[simp] theorem drawn_maskTx : (drawn s).maskTx = s.maskTx := rfl
@[simp] theorem drawn_kbc : (drawn s).kbc = s.kbc := rfl
@[simp] theorem drawn_scan : (drawn s).scan = s.scan := rfl
@[simp] theorem drawn_evInput : (drawn s).evInput = s.evInput := rfl
@[simp] theorem drawn_evKbwake : (drawn s).evKbwake = s.evKbwake := rfl
@[simp] theorem drawn_port : (drawn s).port = s.port := rfl
@[simp] theorem drawn_keys : (drawn s).keys = s.keys := rfl
@[simp] theorem drawn_fault : (drawn s).fault = s.fault := rfl
@[simp] theorem drawn_out : (drawn s).out = s.out := rfl
@[simp] theorem drawn_ret : (drawn s).ret = s.ret := rfl
@[simp] theorem drawn_wait : (drawn s).wait = s.wait := rfl
@[simp] theorem drawn_inputs : (drawn s).inputs = s.inputs := rfl
@[simp] theorem drawn_turns : (drawn s).turns = s.turns := rfl
@[simp] theorem drawn_draws : (drawn s).draws = s.draws + 1 := rfl
end

/-! ## raiseFault -/

section
variable (s : State) (c : FaultCode) (w : Word)
@[simp] theorem raiseFault_cfg : (raiseFault c w s).cfg = s.cfg := rfl
@[simp] theorem raiseFault_tx : (raiseFault c w s).tx = s.tx := rfl
@[simp] theorem raiseFault_rx : (raiseFault c w s).rx = s.rx := rfl
@[simp] theorem raiseFault_front : (raiseFault c w s).front = s.front := rfl
@[simp] theorem raiseFault_maskRx : (raiseFault c w s).maskRx = s.maskRx := rfl
@[simp] theorem raiseFault_maskTx : (raiseFault c w s).maskTx = s.maskTx := rfl
@[simp] theorem raiseFault_kbc : (raiseFault c w s).kbc = s.kbc := rfl
@[simp] theorem raiseFault_scan : (raiseFault c w s).scan = s.scan := rfl
@[simp] theorem raiseFault_evInput : (raiseFault c w s).evInput = s.evInput := rfl
@[simp] theorem raiseFault_evKbwake : (raiseFault c w s).evKbwake = s.evKbwake := rfl
@[simp] theorem raiseFault_port : (raiseFault c w s).port = s.port := rfl
@[simp] theorem raiseFault_keys : (raiseFault c w s).keys = s.keys := rfl
@[simp] theorem raiseFault_fault : (raiseFault c w s).fault = some ⟨c, w⟩ := rfl
@[simp] theorem raiseFault_out : (raiseFault c w s).out = s.out := rfl
@[simp] theorem raiseFault_ret : (raiseFault c w s).ret = s.ret := rfl
@[simp] theorem raiseFault_wait : (raiseFault c w s).wait = s.wait := rfl
@[simp] theorem raiseFault_inputs : (raiseFault c w s).inputs = s.inputs := rfl
@[simp] theorem raiseFault_turns : (raiseFault c w s).turns = s.turns := rfl
@[simp] theorem raiseFault_draws : (raiseFault c w s).draws = s.draws := rfl
end

/-! ## driveColumn -/

section
variable (s : State) (x : ColDrive)
@[simp] theorem driveColumn_cfg : (driveColumn x s).cfg = s.cfg := rfl
@[simp] theorem driveColumn_tx : (driveColumn x s).tx = s.tx := rfl
@[simp] theorem driveColumn_rx : (driveColumn x s).rx = s.rx := rfl
@[simp] theorem driveColumn_front : (driveColumn x s).front = s.front := rfl
@[simp] theorem driveColumn_maskRx : (driveColumn x s).maskRx = s.maskRx := rfl
@[simp] theorem driveColumn_maskTx : (driveColumn x s).maskTx = s.maskTx := rfl
@[simp] theorem driveColumn_kbc : (driveColumn x s).kbc = s.kbc := rfl
@[simp] theorem driveColumn_scan : (driveColumn x s).scan = { s.scan with drive := x } := rfl
@[simp] theorem driveColumn_evInput : (driveColumn x s).evInput = s.evInput := rfl
@[simp] theorem driveColumn_evKbwake : (driveColumn x s).evKbwake = s.evKbwake := rfl
@[simp] theorem driveColumn_port : (driveColumn x s).port = s.port := rfl
@[simp] theorem driveColumn_keys : (driveColumn x s).keys = s.keys := rfl
@[simp] theorem driveColumn_fault : (driveColumn x s).fault = s.fault := rfl
@[simp] theorem driveColumn_out : (driveColumn x s).out = s.out := rfl
@[simp] theorem driveColumn_ret : (driveColumn x s).ret = s.ret := rfl
@[simp] theorem driveColumn_wait : (driveColumn x s).wait = s.wait := rfl
@[simp] theorem driveColumn_inputs : (driveColumn x s).inputs = s.inputs := rfl
@[simp] theorem driveColumn_turns : (driveColumn x s).turns = s.turns := rfl
@[simp] theorem driveColumn_draws : (driveColumn x s).draws = s.draws := rfl
end

/-! ## emit -/

section
variable (s : State) (ch : Channel) (b : Byte)
@[simp] theorem emit_cfg : (emit ch b s).cfg = s.cfg := rfl
@[simp] theorem emit_tx : (emit ch b s).tx = s.tx := rfl
@[simp] theorem emit_rx : (emit ch b s).rx = s.rx := rfl
@[simp] theorem emit_front : (emit ch b s).front = s.front := rfl
@[simp] theorem emit_maskRx : (emit ch b s).maskRx = s.maskRx := rfl
@[simp] theorem emit_maskTx : (emit ch b s).maskTx = s.maskTx := rfl
@[simp] theorem emit_kbc : (emit ch b s).kbc = s.kbc := rfl
@[simp] theorem emit_scan : (emit ch b s).scan = s.scan := rfl
@[simp] theorem emit_evInput : (emit ch b s).evInput = s.evInput := rfl
@[simp] theorem emit_evKbwake : (emit ch b s).evKbwake = s.evKbwake := rfl
@[simp] theorem emit_port : (emit ch b s).port = s.port := rfl
@[simp] theorem emit_keys : (emit ch b s).keys = s.keys := rfl
@[simp] theorem emit_fault : (emit ch b s).fault = s.fault := rfl
@[simp] theorem emit_out : (emit ch b s).out = { s.out with host := s.out.host ++ [(ch, b)] } := rfl
@[simp] theorem emit_ret : (emit ch b s).ret = s.ret := rfl
@[simp] theorem emit_wait : (emit ch b s).wait = s.wait := rfl
@[simp] theorem emit_inputs : (emit ch b s).inputs = s.inputs := rfl
@[simp] theorem emit_turns : (emit ch b s).turns = s.turns := rfl
@[simp] theorem emit_draws : (emit ch b s).draws = s.draws := rfl
end

/-! ## signal -/

section
variable (s : State) (e : CtlEvent)
@[simp] theorem signal_cfg : (signal e s).cfg = s.cfg := rfl
@[simp] theorem signal_tx : (signal e s).tx = s.tx := rfl
@[simp] theorem signal_rx : (signal e s).rx = s.rx := rfl
@[simp] theorem signal_front : (signal e s).front = s.front := rfl
@[simp] theorem signal_maskRx : (signal e s).maskRx = s.maskRx := rfl
@[simp] theorem signal_maskTx : (signal e s).maskTx = s.maskTx := rfl
@[simp] theorem signal_kbc : (signal e s).kbc = s.kbc := rfl
@[simp] theorem signal_scan : (signal e s).scan = s.scan := rfl
@[simp] theorem signal_evInput : (signal e s).evInput = s.evInput := rfl
@[simp] theorem signal_evKbwake : (signal e s).evKbwake = s.evKbwake := rfl
@[simp] theorem signal_port : (signal e s).port = s.port := rfl
@[simp] theorem signal_keys : (signal e s).keys = s.keys := rfl
@[simp] theorem signal_fault : (signal e s).fault = s.fault := rfl
@[simp] theorem signal_out : (signal e s).out = { s.out with ctl := s.out.ctl ++ [e] } := rfl
@[simp] theorem signal_ret : (signal e s).ret = s.ret := rfl
@[simp] theorem signal_wait : (signal e s).wait = s.wait := rfl
@[simp] theorem signal_inputs : (signal e s).inputs = s.inputs := rfl
@[simp] theorem signal_turns : (signal e s).turns = s.turns := rfl
@[simp] theorem signal_draws : (signal e s).draws = s.draws := rfl
end

/-! ## setDState -/

section
variable (s : State) (d : DState)
@[simp] theorem setDState_cfg : (setDState d s).cfg = s.cfg := rfl
@[simp] theorem setDState_tx : (setDState d s).tx = s.tx := rfl
@[simp] theorem setDState_rx : (setDState d s).rx = s.rx := rfl
@[simp] theorem setDState_front : (setDState d s).front = s.front := rfl
@[simp] theorem setDState_maskRx : (setDState d s).maskRx = s.maskRx := rfl
@[simp] theorem setDState_maskTx : (setDState d s).maskTx = s.maskTx := rfl
@[simp] theorem setDState_kbc : (setDState d s).kbc = { s.kbc with dstate := d } := rfl
@[simp] theorem setDState_scan : (setDState d s).scan = s.scan := rfl
@[simp] theorem setDState_evInput : (setDState d s).evInput = s.evInput := rfl
@[simp] theorem setDState_evKbwake : (setDState d s).evKbwake = s.evKbwake := rfl
@[simp] theorem setDState_port : (setDState d s).port = s.port := rfl
@[simp] theorem setDState_keys : (setDState d s).keys = s.keys := rfl
@[simp] theorem setDState_fault : (setDState d s).fault = s.fault := rfl
@[simp] theorem setDState_out : (setDState d s).out = s.out := rfl
@[simp] theorem setDState_ret : (setDState d s).ret = s.ret := rfl
@[simp] theorem setDState_wait : (setDState d s).wait = s.wait := rfl
@[simp] theorem setDState_inputs : (setDState d s).inputs = s.inputs := rfl
@[simp] theorem setDState_turns : (setDState d s).turns = s.turns := rfl
@[simp] theorem setDState_draws : (setDState d s).draws = s.draws := rfl
end

/-! ## setRing -/

section
variable (s : State) (x : Ring)
@[simp] theorem setRing_tx_tx : (s.setRing .tx x).tx = x := rfl
@[simp] theorem setRing_tx_rx : (s.setRing .tx x).rx = s.rx := rfl
@[simp] theorem setRing_rx_tx : (s.setRing .rx x).tx = s.tx := rfl
@[simp] theorem setRing_rx_rx : (s.setRing .rx x).rx = x := rfl
variable (r : RingId)
@[simp] theorem setRing_cfg : (s.setRing r x).cfg = s.cfg := by cases r <;> rfl
@[simp] theorem setRing_front : (s.setRing r x).front = s.front := by cases r <;> rfl
@[simp] theorem setRing_maskRx : (s.setRing r x).maskRx = s.maskRx := by cases r <;> rfl
@[simp] theorem setRing_maskTx : (s.setRing r x).maskTx = s.maskTx := by cases r <;> rfl
@[simp] theorem setRing_kbc : (s.setRing r x).kbc = s.kbc := by cases r <;> rfl
@[simp] theorem setRing_scan : (s.setRing r x).scan = s.scan := by cases r <;> rfl
@[simp] theorem setRing_evInput : (s.setRing r x).evInput = s.evInput := by cases r <;> rfl
@[simp] theorem setRing_evKbwake : (s.setRing r x).evKbwake = s.evKbwake := by cases r <;> rfl
@[simp] theorem setRing_port : (s.setRing r x).port = s.port := by cases r <;> rfl
@[simp] theorem setRing_keys : (s.setRing r x).keys = s.keys := by cases r <;> rfl
@[simp] theorem setRing_fault : (s.setRing r x).fault = s.fault := by cases r <;> rfl
@[simp] theorem setRing_out : (s.setRing r x).out = s.out := by cases r <;> rfl
@[simp] theorem setRing_ret : (s.setRing r x).ret = s.ret := by cases r <;> rfl
@[simp] theorem setRing_wait : (s.setRing r x).wait = s.wait := by cases r <;> rfl
@[simp] theorem setRing_inputs : (s.setRing r x).inputs = s.inputs := by cases r <;> rfl
@[simp] theorem setRing_turns : (s.setRing r x).turns = s.turns := by cases r <;> rfl
@[simp] theorem setRing_draws : (s.setRing r x).draws = s.draws := by cases r <;> rfl
end

/-! ## setMask -/

section
variable (s : State) (v : Bool)
@[simp] theorem setMask_tx_maskRx : (s.setMask .tx v).maskRx = s.maskRx := rfl
@[simp] theorem setMask_tx_maskTx : (s.setMask .tx v).maskTx = v := rfl
@[simp] theorem setMask_rx_maskRx : (s.setMask .rx v).maskRx = v := rfl
@[simp] theorem setMask_rx_maskTx : (s.setMask .rx v).maskTx = s.maskTx := rfl
variable (r : RingId)
@[simp] theorem setMask_cfg : (s.setMask r v).cfg = s.cfg := by cases r <;> rfl
@[simp] theorem setMask_tx : (s.setMask r v).tx = s.tx := by cases r <;> rfl
@[simp] theorem setMask_rx : (s.setMask r v).rx = s.rx := by cases r <;> rfl
@[simp] theorem setMask_front : (s.setMask r v).front = s.front := by cases r <;> rfl
@[simp] theorem setMask_kbc : (s.setMask r v).kbc = s.kbc := by cases r <;> rfl
@[simp] theorem setMask_scan : (s.setMask r v).scan = s.scan := by cases r <;> rfl
@[simp] theorem setMask_evInput : (s.setMask r v).evInput = s.evInput := by cases r <;> rfl
@[simp] theorem setMask_evKbwake : (s.setMask r v).evKbwake = s.evKbwake := by cases r <;> rfl
@[simp] theorem setMask_port : (s.setMask r v).port = s.port := by cases r <;> rfl
@[simp] theorem setMask_keys : (s.setMask r v).keys = s.keys := by cases r <;> rfl
@[simp] theorem setMask_fault : (s.setMask r v).fault = s.fault := by cases r <;> rfl
@[simp] theorem setMask_out : (s.setMask r v).out = s.out := by cases r <;> rfl
@[simp] theorem setMask_ret : (s.setMask r v).ret = s.ret := by cases r <;> rfl
@[simp] theorem setMask_wait : (s.setMask r v).wait = s.wait := by cases r <;> rfl
@[simp] theorem setMask_inputs : (s.setMask r v).inputs = s.inputs := by cases r <;> rfl
@[simp] theorem setMask_turns : (s.setMask r v).turns = s.turns := by cases r <;> rfl
@[simp] theorem setMask_draws : (s.setMask r v).draws = s.draws := by cases r <;> rfl
end

/-! ## Rings by name -/

@[simp] theorem ring_tx (s : State) : s.ring .tx = s.tx := rfl
@[simp] theorem ring_rx (s : State) : s.ring .rx = s.rx := rfl
@[simp] theorem cap_tx (s : State) : s.cap .tx = s.cfg.capTx := rfl
@[simp] theorem cap_rx (s : State) : s.cap .rx = s.cfg.capRx := rfl
@[simp] theorem mask_tx (s : State) : s.mask .tx = s.maskTx := rfl
@[simp] theorem mask_rx (s : State) : s.mask .rx = s.maskRx := rfl

theorem ring_setRing_same (s : State) (r : RingId) (x : Ring) : (s.setRing r x).ring r = x := by cases r <;> rfl

theorem ring_setRing_other (s : State) (r q : RingId) (x : Ring) (h : q ≠ r) : (s.setRing r x).ring q = s.ring q := by
  cases r <;> cases q <;> first | rfl | exact absurd rfl h

theorem cap_setRing (s : State) (r q : RingId) (x : Ring) : (s.setRing r x).cap q = s.cap q := by
  cases r <;> cases q <;> rfl

/-! ## resetBlock (70_reset_and_hazards.md R450) -/

section
variable (s : State)
@[simp] theorem resetBlock_cfg : (resetBlock s).cfg = s.cfg := rfl
@[simp] theorem resetBlock_tx : (resetBlock s).tx = (State.initial s.cfg s.keys).tx := rfl
@[simp] theorem resetBlock_rx : (resetBlock s).rx = (State.initial s.cfg s.keys).rx := rfl
@[simp] theorem resetBlock_front : (resetBlock s).front = (State.initial s.cfg s.keys).front := rfl
@[simp] theorem resetBlock_maskRx : (resetBlock s).maskRx = (State.initial s.cfg s.keys).maskRx := rfl
@[simp] theorem resetBlock_maskTx : (resetBlock s).maskTx = (State.initial s.cfg s.keys).maskTx := rfl
@[simp] theorem resetBlock_kbc : (resetBlock s).kbc = (State.initial s.cfg s.keys).kbc := rfl
@[simp] theorem resetBlock_scan : (resetBlock s).scan = (State.initial s.cfg s.keys).scan := rfl
@[simp] theorem resetBlock_evInput : (resetBlock s).evInput = (State.initial s.cfg s.keys).evInput := rfl
@[simp] theorem resetBlock_evKbwake : (resetBlock s).evKbwake = (State.initial s.cfg s.keys).evKbwake := rfl
@[simp] theorem resetBlock_port : (resetBlock s).port = (State.initial s.cfg s.keys).port := rfl
@[simp] theorem resetBlock_keys : (resetBlock s).keys = s.keys := rfl
@[simp] theorem resetBlock_fault : (resetBlock s).fault = (State.initial s.cfg s.keys).fault := rfl
@[simp] theorem resetBlock_out : (resetBlock s).out = (State.initial s.cfg s.keys).out := rfl
@[simp] theorem resetBlock_ret : (resetBlock s).ret = (State.initial s.cfg s.keys).ret := rfl
@[simp] theorem resetBlock_wait : (resetBlock s).wait = (State.initial s.cfg s.keys).wait := rfl
@[simp] theorem resetBlock_inputs : (resetBlock s).inputs = s.inputs := rfl
@[simp] theorem resetBlock_turns : (resetBlock s).turns = s.turns := rfl
@[simp] theorem resetBlock_draws : (resetBlock s).draws = s.draws := rfl
end

end Sys2Proof.Machine
end

