-- ==== Sys2Proof/Laws/Ops.lean ====
section
/-! SUPPORT. One lemma per shared operation that says once everything it can do. Cite these instead of unfolding. -/

namespace Sys2Proof.Machine

/-! ## Ring primitives -/

/-- `slotRead`: a listed slot answers its byte and changes nothing; an unlisted one answers a free value, one drawn. -/
theorem slotRead_cases (r : RingId) (i : Nat) (s : State) :
    (∃ b, memFind i (s.ring r).data = some b ∧ slotRead r i s = (b, s)) ∨
      (memFind i (s.ring r).data = none ∧ slotRead r i s = (Config.freeByte s.draws, drawn s)) := by
  unfold slotRead
  cases memFind i (s.ring r).data with
  | some b => exact .inl ⟨b, rfl, rfl⟩
  | none => exact .inr ⟨rfl, rfl⟩

/-- `slotRead` changes at most the count of draws. -/
theorem slotRead_state (r : RingId) (i : Nat) (s : State) :
    (slotRead r i s).2 = { s with draws := (slotRead r i s).2.draws } := by
  obtain ⟨b, -, h⟩ | ⟨-, h⟩ := slotRead_cases r i s
  · rw [h]
  · rw [h]
    rfl

/-- `ring_push` on a full ring: nothing written. -/
theorem ringPush_full {r : RingId} {b : Byte} {s : State} (h : ringFull (s.cap r) (s.ring r) = true) :
    ringPush r b s = (false, s) := by
  simp [ringPush, h]

/-- `ring_push` with room, on TX: the byte stored at `head`, `head` advanced. -/
theorem ringPush_room_tx {b : Byte} {s : State} (h : ringFull s.cfg.capTx s.tx = false) :
    ringPush .tx b s = (true, { s with
      tx := { head := (s.tx.head + 1) % s.cfg.capTx, tail := s.tx.tail, data := memInsert s.tx.head b s.tx.data } }) := by
  simp [ringPush, State.cap, capOf, State.ring, h]
  rfl

/-- `ring_push` with room, on RX. -/
theorem ringPush_room_rx {b : Byte} {s : State} (h : ringFull s.cfg.capRx s.rx = false) :
    ringPush .rx b s = (true, { s with
      rx := { head := (s.rx.head + 1) % s.cfg.capRx, tail := s.rx.tail, data := memInsert s.rx.head b s.rx.data } }) := by
  simp [ringPush, State.cap, capOf, State.ring, h]
  rfl

/-- `ring_pop` on an empty ring: nothing written. -/
theorem ringPop_empty {r : RingId} {s : State} (h : ringEmpty (s.ring r) = true) : ringPop r s = (none, s) := by
  simp [ringPop, h]

/-- `ring_pop` of TX with a byte: the byte of the slot at `tail`, `tail` advanced. -/
theorem ringPop_some_tx {s : State} (h : ringEmpty s.tx = false) :
    ringPop .tx s = (some (slotRead .tx s.tx.tail s).1, { s with
      tx := { s.tx with tail := (s.tx.tail + 1) % s.cfg.capTx }, draws := (slotRead .tx s.tx.tail s).2.draws }) := by
  simp [ringPop, State.cap, capOf, State.ring, h]
  rw [slotRead_state]
  rfl

/-- `ring_pop` of RX with a byte. -/
theorem ringPop_some_rx {s : State} (h : ringEmpty s.rx = false) :
    ringPop .rx s = (some (slotRead .rx s.rx.tail s).1, { s with
      rx := { s.rx with tail := (s.rx.tail + 1) % s.cfg.capRx }, draws := (slotRead .rx s.rx.tail s).2.draws }) := by
  simp [ringPop, State.cap, capOf, State.ring, h]
  rw [slotRead_state]
  rfl

/-- `ring_push` writes at most its ring. -/
theorem ringPush_state_tx (b : Byte) (s : State) :
    (ringPush .tx b s).2 = { s with tx := (ringPush .tx b s).2.tx } := by
  cases h : ringFull s.cfg.capTx s.tx with
  | true => rw [ringPush_full (r := .tx) h]
  | false => rw [ringPush_room_tx h]

theorem ringPush_state_rx (b : Byte) (s : State) :
    (ringPush .rx b s).2 = { s with rx := (ringPush .rx b s).2.rx } := by
  cases h : ringFull s.cfg.capRx s.rx with
  | true => rw [ringPush_full (r := .rx) h]
  | false => rw [ringPush_room_rx h]

/-- `ring_pop` writes at most its ring's tail and the count of draws. -/
theorem ringPop_state_tx (s : State) :
    (ringPop .tx s).2 = { s with tx := { s.tx with tail := (ringPop .tx s).2.tx.tail }, draws := (ringPop .tx s).2.draws } := by
  cases h : ringEmpty s.tx with
  | true => rw [ringPop_empty (r := .tx) h]
  | false => rw [ringPop_some_tx h]

theorem ringPop_state_rx (s : State) :
    (ringPop .rx s).2 = { s with rx := { s.rx with tail := (ringPop .rx s).2.rx.tail }, draws := (ringPop .rx s).2.draws } := by
  cases h : ringEmpty s.rx with
  | true => rw [ringPop_empty (r := .rx) h]
  | false => rw [ringPop_some_rx h]

/-! ## Ring transactions -/

/-- A push transaction faults or answers the push. -/
theorem pushTransaction_cases (r : RingId) (b : Byte) (w : Word) (s : State) :
    (breaksOwnership (r == .rx) r s = true ∧ pushTransaction r b w s = .next (raiseFault .ownership w s)) ∨
      (breaksOwnership (r == .rx) r s = false ∧
        pushTransaction r b w s = .next (returns (.bool (ringPush r b s).1) (ringPush r b s).2)) := by
  unfold pushTransaction
  cases breaksOwnership (r == .rx) r s
  · exact .inr ⟨rfl, rfl⟩
  · exact .inl ⟨rfl, rfl⟩

/-- A pop transaction faults or answers the pop. -/
theorem popTransaction_cases (r : RingId) (w : Word) (s : State) :
    (breaksOwnership (r == .tx) r s = true ∧ popTransaction r w s = .next (raiseFault .ownership w s)) ∨
      (breaksOwnership (r == .tx) r s = false ∧
        popTransaction r w s = .next (returns (.popped (ringPop r s).1) (ringPop r s).2)) := by
  unfold popTransaction
  cases breaksOwnership (r == .tx) r s
  · exact .inr ⟨rfl, rfl⟩
  · exact .inl ⟨rfl, rfl⟩

/-- A write of `head` faults on its index, on its owner, or writes the index. -/
theorem wrHeadTransaction_cases (r : RingId) (i : Field16) (w : Word) (s : State) :
    (s.cap r ≤ i.toNat ∧ wrHeadTransaction r i w s = .next (raiseFault .indexBounds w s)) ∨
      (i.toNat < s.cap r ∧ breaksOwnership (r == .rx) r s = true ∧
        wrHeadTransaction r i w s = .next (raiseFault .ownership w s)) ∨
      (i.toNat < s.cap r ∧ breaksOwnership (r == .rx) r s = false ∧
        wrHeadTransaction r i w s = .next (returns .unit (setHead r i.toNat s))) := by
  unfold wrHeadTransaction indexOperand
  by_cases h : s.cap r ≤ i.toNat
  · exact .inl ⟨h, by simp [h]⟩
  · have h' := Nat.lt_of_not_le h
    cases hb : breaksOwnership (r == .rx) r s
    · exact .inr (.inr ⟨h', rfl, by simp [h]⟩)
    · exact .inr (.inl ⟨h', rfl, by simp [h]⟩)

/-- A write of `tail` faults on its index, on its owner, or writes the index. -/
theorem wrTailTransaction_cases (r : RingId) (i : Field16) (w : Word) (s : State) :
    (s.cap r ≤ i.toNat ∧ wrTailTransaction r i w s = .next (raiseFault .indexBounds w s)) ∨
      (i.toNat < s.cap r ∧ breaksOwnership (r == .tx) r s = true ∧
        wrTailTransaction r i w s = .next (raiseFault .ownership w s)) ∨
      (i.toNat < s.cap r ∧ breaksOwnership (r == .tx) r s = false ∧
        wrTailTransaction r i w s = .next (returns .unit (setTail r i.toNat s))) := by
  unfold wrTailTransaction indexOperand
  by_cases h : s.cap r ≤ i.toNat
  · exact .inl ⟨h, by simp [h]⟩
  · have h' := Nat.lt_of_not_le h
    cases hb : breaksOwnership (r == .tx) r s
    · exact .inr (.inr ⟨h', rfl, by simp [h]⟩)
    · exact .inr (.inl ⟨h', rfl, by simp [h]⟩)

/-- A slot read faults on its index or answers the slot. -/
theorem rdSlotTransaction_cases (r : RingId) (i : Field16) (w : Word) (s : State) :
    (s.cap r ≤ i.toNat ∧ rdSlotTransaction r i w s = .next (raiseFault .indexBounds w s)) ∨
      (i.toNat < s.cap r ∧ rdSlotTransaction r i w s =
        .next { s with draws := (slotRead r i.toNat s).2.draws, ret := some (.byte (slotRead r i.toNat s).1) }) := by
  unfold rdSlotTransaction indexOperand
  by_cases h : s.cap r ≤ i.toNat
  · exact .inl ⟨h, by simp [h]⟩
  · refine .inr ⟨Nat.lt_of_not_le h, ?_⟩
    rw [if_neg h, slotRead_state]
    rfl

/-- A slot write faults on its index, on its owner, or stores the byte. -/
theorem wrSlotTransaction_cases (r : RingId) (i : Field16) (b : Byte) (w : Word) (s : State) :
    (s.cap r ≤ i.toNat ∧ wrSlotTransaction r i b w s = .next (raiseFault .indexBounds w s)) ∨
      (i.toNat < s.cap r ∧ breaksOwnership (isrOwnedSlot r i.toNat s) r s = true ∧
        wrSlotTransaction r i b w s = .next (raiseFault .ownership w s)) ∨
      (i.toNat < s.cap r ∧ breaksOwnership (isrOwnedSlot r i.toNat s) r s = false ∧
        wrSlotTransaction r i b w s = .next (returns .unit (slotWrite r i.toNat b s))) := by
  unfold wrSlotTransaction indexOperand
  by_cases h : s.cap r ≤ i.toNat
  · exact .inl ⟨h, by simp [h]⟩
  · have h' := Nat.lt_of_not_le h
    cases hb : breaksOwnership (isrOwnedSlot r i.toNat s) r s
    · exact .inr (.inr ⟨h', rfl, by simp [h]⟩)
    · exact .inr (.inl ⟨h', rfl, by simp [h]⟩)

/-! ## Waiting and scanning -/

/-- A WAIT_INPUT completes with EVENT, completes with TIMEOUT on a free choice, or holds. -/
theorem waitOn_cases (timeout : Bool) (s : State) :
    (s.evInput = true ∧ waitOn timeout s = waitEvent s) ∨
      (s.evInput = false ∧ timeout = false ∧ waitOn timeout s = waitHolds false s) ∨
      (s.evInput = false ∧ timeout = true ∧
        (waitOn timeout s = waitTimeout (drawn s) ∨ waitOn timeout s = waitHolds true (drawn s))) := by
  unfold waitOn
  cases he : s.evInput
  · cases timeout
    · exact .inr (.inl ⟨rfl, rfl, rfl⟩)
    · refine .inr (.inr ⟨rfl, rfl, ?_⟩)
      cases Config.freeBit s.draws
      · exact .inr rfl
      · exact .inl rfl
  · exact .inl ⟨rfl, rfl⟩

/-- The row-change latch sets the request or leaves the state as it was. -/
theorem latchRowChange_cases (s : State) :
    ((s.scan.irqEn = true ∧ sampleRows s ≠ s.scan.rowsAtArm) ∧
        latchRowChange s = { s with scan := { s.scan with irqPending := true } }) ∨
      (¬(s.scan.irqEn = true ∧ sampleRows s ≠ s.scan.rowsAtArm) ∧ latchRowChange s = s) := by
  unfold latchRowChange
  by_cases h : s.scan.irqEn = true ∧ sampleRows s ≠ s.scan.rowsAtArm
  · exact .inl ⟨h, by simp [h]⟩
  · refine .inr ⟨h, ?_⟩
    rw [if_neg]
    simpa using h

/-! ## Translator -/

/-- A response is appended to `host_out` in its order and nothing else changes. -/
theorem emitAll_eq (bs : List Byte) (s : State) :
    emitAll bs s = { s with out := { s.out with host := s.out.host ++ bs.map fun b => (Channel.kbd, b) } } := by
  induction bs generalizing s with
  | nil => simp [emitAll]
  | cons b bs ih => simpa [emitAll, emit] using ih (emit .kbd b s)

/-- A response of at most three bytes, once cached, is what a RESEND replays. -/
theorem cachedResponse_cacheResponse {resp : List Byte} (k : Kbc) (h0 : resp ≠ []) (h3 : resp.length ≤ 3) :
    cachedResponse (cacheResponse resp k) = resp := by
  have hl : 0 < resp.length := List.length_pos_iff.mpr h0
  unfold cachedResponse cacheResponse
  rw [if_pos hl]
  apply List.ext_getElem
  · simpa using h3
  · intro n h1 h2
    simp [List.getElem_take, h2]

/-- Caching writes the resend buffer and its length alone. -/
theorem cacheResponse_eq (resp : List Byte) (k : Kbc) :
    cacheResponse resp k =
      { k with resendLen := (cacheResponse resp k).resendLen, resendBuf := (cacheResponse resp k).resendBuf } := by
  unfold cacheResponse
  split <;> rfl

/-- `set_kb_enabled(v)`: the level is `v`; the event is signalled where it was not. -/
theorem setKbEnabled_eq (v : Bool) (s : State) :
    setKbEnabled v s = { s with
      kbc := { s.kbc with enabled := v }
      out := { s.out with ctl := s.out.ctl ++ if s.kbc.enabled = v then [] else [.kbEnable v] } } := by
  by_cases h : s.kbc.enabled = v
  · subst h
    simp [setKbEnabled]
  · simp [setKbEnabled, h, signal]

/-- `write_ram` writes the translator and `ctl_events` alone. -/
theorem writeRam_state (a : BitVec 5) (v : Byte) (s : State) :
    writeRam a v s =
      { s with kbc := (writeRam a v s).kbc, out := { s.out with ctl := (writeRam a v s).out.ctl } } := by
  unfold writeRam
  split
  · unfold commandByteEffects signalIf
    repeat' split
    all_goals simp [signal, setKbEnabled_eq]
  · rfl

/-- A DATA response: emitted, cached if cacheable, and `unit` returned. -/
theorem respondData_eq (resp : List Byte) (cacheable : Bool) (s : State) :
    respondData resp cacheable s = { s with
      kbc := if cacheable then cacheResponse resp s.kbc else s.kbc
      out := { s.out with host := s.out.host ++ resp.map fun b => (Channel.kbd, b) }
      ret := some .unit } := by
  unfold respondData
  rw [emitAll_eq]
  cases cacheable <;> rfl

/-- A CMD response: emitted, and `unit` returned. -/
theorem respondCmd_eq (resp : List Byte) (s : State) :
    respondCmd resp s = { s with
      out := { s.out with host := s.out.host ++ resp.map fun b => (Channel.kbd, b) }, ret := some .unit } := by
  unfold respondCmd
  rw [emitAll_eq]
  rfl

/-- `translate` answers a status and appends to `host_out` at most. -/
theorem translate_cases (row : Fin 8) (col : Nat) (p : Bool) (s : State) :
    (makeCode s.cfg (effectiveSet s.kbc) row col = none ∧ translate row col p s = (.unimplemented, s)) ∨
      ∃ m, makeCode s.cfg (effectiveSet s.kbc) row col = some m ∧
        ((s.kbc.enabled = false ∧ translate row col p s = (.droppedDisabled, s)) ∨
          (s.kbc.enabled = true ∧ translate row col p s =
            (.ok, { s with out := { s.out with
              host := s.out.host ++
                (codeBytes s.cfg.breakOrder m (effectiveSet s.kbc) p).map fun b => (Channel.kbd, b) } }))) := by
  unfold translate
  cases hm : makeCode s.cfg (effectiveSet s.kbc) row col with
  | none => exact .inl ⟨rfl, rfl⟩
  | some m =>
    refine .inr ⟨m, rfl, ?_⟩
    cases he : s.kbc.enabled with
    | false => exact .inl ⟨rfl, by simp⟩
    | true => exact .inr ⟨rfl, by simp [emitAll_eq]⟩

/-- `translate` writes `host_out` alone. -/
theorem translate_state (row : Fin 8) (col : Nat) (p : Bool) (s : State) :
    (translate row col p s).2 = { s with out := { s.out with host := (translate row col p s).2.out.host } } := by
  obtain ⟨-, h⟩ | ⟨m, -, ⟨-, h⟩ | ⟨-, h⟩⟩ := translate_cases row col p s <;> rw [h]

/-- The status `translate` answers depends on the configuration and the translator alone. -/
theorem translate_status_congr {s u : State} (row : Fin 8) (col : Nat) (p : Bool) (hc : s.cfg = u.cfg)
    (hk : s.kbc = u.kbc) : (translate row col p s).1 = (translate row col p u).1 := by
  unfold translate
  rw [hc, hk]
  cases makeCode u.cfg (effectiveSet u.kbc) row col with
  | none => rfl
  | some m => cases u.kbc.enabled <;> rfl

/-- One reported edge: `host_out` and `edge_log` alone, the edge recorded with the translator's answer. -/
theorem report_eq (row : Fin 8) (col : Nat) (p : Bool) (s : State) :
    report row col p s = { s with out := { s.out with
      host := (translate row col p s).2.out.host
      edges := s.out.edges ++ [{ row := row, col := col, pressed := p, status := (translate row col p s).1 }] } } := by
  unfold report
  rw [translate_state]

/-- The reported edges of a column: `host_out` and `edge_log` alone, every edge recorded once, in order. -/
theorem reportAll_eq (col : Nat) (es : List (Fin 8 × Bool)) (s : State) :
    ∃ h, reportAll col es s = { s with out := { s.out with
      host := h
      edges := s.out.edges ++ es.map fun e =>
        { row := e.1, col := col, pressed := e.2, status := (translate e.1 col e.2 s).1 } } } := by
  induction es generalizing s with
  | nil => exact ⟨s.out.host, by simp [reportAll]⟩
  | cons e es ih =>
    obtain ⟨r, p⟩ := e
    obtain ⟨h, hh⟩ := ih (report r col p s)
    refine ⟨h, ?_⟩
    rw [reportAll, hh, report_eq]
    simp only [List.map_cons, List.append_assoc, List.singleton_append]
    have hc : (fun e : Fin 8 × Bool => ({ row := e.1, col := col, pressed := e.2
                                          status := (translate e.1 col e.2 (report r col p s)).1 } : Edge)) =
        fun e => { row := e.1, col := col, pressed := e.2, status := (translate e.1 col e.2 s).1 } := by
      funext e
      rw [translate_status_congr (s := report r col p s) (u := s)] <;> rw [report_eq]
    rw [report_eq] at hc
    rw [hc]

/-- The bytes the reported edges of a column emit: what `translate` emits for each, in their order. -/
theorem reportAll_host (col : Nat) (es : List (Fin 8 × Bool)) (s : State) :
    (reportAll col es s).out.host = s.out.host ++ es.flatMap fun e =>
      (translate e.1 col e.2 { s with out := { s.out with host := [] } }).2.out.host := by
  induction es generalizing s with
  | nil => simp [reportAll]
  | cons e es ih =>
    obtain ⟨r, p⟩ := e
    have e1 : (report r col p s).out.host =
        s.out.host ++ (translate r col p { s with out := { s.out with host := [] } }).2.out.host := by
      rw [report_eq]
      dsimp only
      unfold translate
      dsimp only
      cases makeCode s.cfg (effectiveSet s.kbc) r col with
      | none => simp
      | some m => cases h : s.kbc.enabled <;> simp [emitAll_eq]
    rw [reportAll, ih, e1]
    simp only [List.flatMap_cons, List.append_assoc]
    congr 3
    funext e
    unfold translate
    rw [report_eq]
    dsimp only
    cases makeCode s.cfg (effectiveSet s.kbc) e.1 col with
    | none => simp
    | some m => cases h : s.kbc.enabled <;> simp [emitAll_eq]

/-! ## The scheduler -/

/-- What `nextInput` takes out is issued by that agent, and is one of the inputs. -/
theorem nextInput_issuer {a : Agent} : ∀ {l : List Word} {w : Word} {rest : List Word},
    nextInput a l = some (w, rest) → issuerOf w = a ∧ w ∈ l
  | w :: ws, x, rest, h => by
    unfold nextInput at h
    split at h
    · cases h
      exact ⟨‹_›, List.mem_cons_self ..⟩
    · obtain ⟨p, hp, he⟩ := Option.map_eq_some_iff.mp h
      obtain ⟨y, q⟩ := p
      cases he
      exact (nextInput_issuer hp).imp id (List.mem_cons_of_mem _)

/-- No word is issued by an interrupt engine or by the scanner. -/
theorem nextInput_none {a : Agent} (ha : ∀ w, issuerOf w ≠ a) (l : List Word) : nextInput a l = none := by
  induction l with
  | nil => rfl
  | cons w ws ih => simp [nextInput, ha w, ih]

theorem issuerOf_cases (w : Word) :
    issuerOf w = .task ∨ issuerOf w = .host ∨ issuerOf w = .env ∨ issuerOf w = .harness := by
  unfold issuerOf
  split <;> simp

/-- An outcome that leaves the rings in bounds passes the check unchanged. -/
theorem checkInvariant_next {w : Word} {s t : State} (h : ringsInBounds t = true) :
    checkInvariant w s (.next t) = .next t := by
  simp [checkInvariant, h]

/-- The check answers a next state only for a next state: that state, or the fault. -/
theorem checkInvariant_cases {w : Word} {s t : State} {o : Outcome} (h : checkInvariant w s o = .next t) :
    (o = .next t ∧ ringsInBounds t = true) ∨
      ∃ u, o = .next u ∧ ringsInBounds u = false ∧ t = raiseFault .invariant w s := by
  unfold checkInvariant at h
  split at h
  · split at h
    · cases h
      exact .inl ⟨rfl, ‹_›⟩
    · rename_i hb
      cases h
      exact .inr ⟨_, rfl, by simpa using hb, rfl⟩
  · cases h
  · cases h

/-- At an agent's listed turn, with no fault, the step is that agent's turn. -/
theorem step_agent {s : State} {a : Agent} {ts : List Turn} (ht : s.turns = .agent a :: ts) (hf : s.fault = none) :
    step s = takeTurn a { s with turns := ts } := by
  unfold step nextTurn
  rw [ht]
  dsimp only
  rw [hf]

/-- An agent's own step does not depend on the turns, nor does its holding. -/
@[simp] theorem agentStepOf_turns (a : Agent) (s : State) (ts : List Turn) :
    agentStepOf a { s with turns := ts } = agentStepOf a s := rfl

@[simp] theorem holds_turns (a : Agent) (s : State) (ts : List Turn) : holds a { s with turns := ts } = holds a s := rfl

/-- An agent with a step of its own due takes it. -/
theorem takeTurn_due {a : Agent} {s : State} {st : AgentStep} (h : agentStepOf a s = some st) :
    takeTurn a s = checkInvariant 0 s (.next (runAgentStep st s)) := by
  unfold takeTurn
  rw [h]

/-- An agent that holds passes. -/
theorem takeTurn_holding {a : Agent} {s : State} (h : agentStepOf a s = none) (hh : holds a s = true) :
    takeTurn a s = .next s := by
  unfold takeTurn
  rw [h]
  simp [hh]

/-- An agent with nothing due and no transaction to issue passes. -/
theorem takeTurn_idle {a : Agent} {s : State} (h : agentStepOf a s = none) (hn : nextInput a s.inputs = none) :
    takeTurn a s = .next s := by
  unfold takeTurn
  rw [h, hn]
  simp

/-- An agent with nothing due that does not hold issues its next transaction. -/
theorem takeTurn_issue {a : Agent} {s : State} {w : Word} {rest : List Word} (h : agentStepOf a s = none)
    (hh : holds a s = false) (hn : nextInput a s.inputs = some (w, rest)) :
    takeTurn a s = transact w { s with inputs := rest } := by
  unfold takeTurn
  rw [h, hn]
  simp [hh]

/-- An agent's turn that answers a next state was its enabled step, one of its transactions, or a pass. -/
theorem takeTurn_cases {a : Agent} {s t : State} (h : takeTurn a s = .next t) :
    (∃ st, agentStepOf a s = some st ∧ checkInvariant 0 s (.next (runAgentStep st s)) = .next t) ∨
      (agentStepOf a s = none ∧ t = s ∧ (holds a s = true ∨ nextInput a s.inputs = none)) ∨
      ∃ w rest i, agentStepOf a s = none ∧ holds a s = false ∧ nextInput a s.inputs = some (w, rest) ∧
        decodeWord w = .ok i ∧
        checkInvariant w { s with inputs := rest } (exec i { s with inputs := rest }) = .next t := by
  unfold takeTurn at h
  cases hs : agentStepOf a s with
  | some st => exact .inl ⟨st, rfl, by simpa [hs] using h⟩
  | none =>
    simp only [hs] at h
    cases hh : holds a s with
    | true =>
      simp only [hh, if_true, Host.Outcome.next.injEq] at h
      exact .inr (.inl ⟨rfl, h.symm, .inl rfl⟩)
    | false =>
      simp only [hh, Bool.false_eq_true, if_false] at h
      cases hn : nextInput a s.inputs with
      | none =>
        simp only [hn, Host.Outcome.next.injEq] at h
        exact .inr (.inl ⟨rfl, h.symm, .inr rfl⟩)
      | some p =>
        obtain ⟨w, rest⟩ := p
        simp only [hn, transact] at h
        cases hd : decodeWord w with
        | error e => simp [hd] at h
        | ok i => exact .inr (.inr ⟨w, rest, i, rfl, rfl, rfl, hd, by simpa [hd] using h⟩)

/-- With no turn listed, a next state is a pass of the whole block or some agent's turn, on the state itself or with one
more choice drawn. -/
theorem freeTurn_cases {s t : State} (h : freeTurn s = .next t) :
    t = s ∨ ∃ a u, (u = s ∨ u = drawn s) ∧ takeTurn a u = .next t := by
  unfold freeTurn at h
  split at h
  · cases h
    exact .inl rfl
  · exact .inr ⟨_, s, .inl rfl, h⟩
  · exact .inr ⟨_, drawn s, .inr rfl, h⟩

/-- A step that answers a next state was a reset, an agent's listed turn, a free turn's agent, or a pass. -/
theorem step_cases {s t : State} (h : step s = .next t) :
    (∃ ts, s.turns = .reset :: ts ∧ t = resetBlock { s with turns := ts }) ∨
      (s.fault = none ∧ s.turns.head? ≠ some .reset ∧
        (t = s ∨ ∃ a u, takeTurn a u = .next t ∧
          ((∃ ts, s.turns = .agent a :: ts ∧ u = { s with turns := ts }) ∨
            (s.turns = [] ∧ (u = s ∨ u = drawn s))))) := by
  unfold step nextTurn at h
  cases hts : s.turns with
  | nil =>
    simp only [hts] at h
    cases hf : s.fault with
    | some f => simp [hf] at h
    | none =>
      simp only [hf] at h
      refine .inr ⟨rfl, by simp, ?_⟩
      obtain rfl | ⟨a, u, hu, ht⟩ := freeTurn_cases h
      · exact .inl rfl
      · exact .inr ⟨a, u, ht, .inr ⟨rfl, hu⟩⟩
  | cons hd ts =>
    cases hd with
    | reset =>
      simp only [hts, Host.Outcome.next.injEq] at h
      exact .inl ⟨ts, rfl, h.symm⟩
    | agent a =>
      simp only [hts] at h
      cases hf : s.fault with
      | some f => simp [hf] at h
      | none =>
        simp only [hf] at h
        exact .inr ⟨rfl, by simp, .inr ⟨a, _, h, .inl ⟨ts, rfl, rfl⟩⟩⟩

end Sys2Proof.Machine
end

