-- ==== Sys2Proof/Laws/PerInstr.lean ====
section
/-! SUPPORT. The statements made per instruction: each instruction's word is a word of the opcode table
(30_encoding.md R134). -/

namespace Sys2Proof.Laws.TableRow

/-- The word of `i` matches a row of spec/opcode_table.json. -/
def Statement (i : Instr) : Prop := ∃ r ∈ wordRows, encode i &&& r.mask = r.bits

/-- A word matches a row where its fields, masked, are the row's. -/
theorem of_fields {r : WordRow} (hr : r ∈ wordRows) {w : Word} {u o u' o' : BitVec 4} {a a' : Field16} {b b' : Byte}
    (hw : w = mkWord u o a b) (hm : r.mask = mkWord u' o' a' b')
    (hb : r.bits = mkWord (u &&& u') (o &&& o') (a &&& a') (b &&& b')) : ∃ r ∈ wordRows, w &&& r.mask = r.bits :=
  ⟨r, hr, by rw [hw, hm, hb, mkWord_and]⟩

theorem and_fifteen (x : BitVec 4) : x &&& 15 = x := by revert x; decide

/-- The rows with a free byte, with a free index, with both, and with no free field. -/
theorem byte_row {u o : BitVec 4} {bits : Word} (b : Byte) (hr : ⟨bits, 0xFFFFFF00⟩ ∈ wordRows) (hb : bits = mkWord u o 0 0) :
    ∃ r ∈ wordRows, mkWord u o 0 b &&& r.mask = r.bits :=
  of_fields hr rfl (u' := 15) (o' := 15) (a' := 0xFFFF) (b' := 0) (by show (0xFFFFFF00 : Word) = _; decide) (by
    subst hb
    rw [and_fifteen, and_fifteen]
    simp)

theorem index_row {u o : BitVec 4} {bits : Word} (i : Field16) (hr : ⟨bits, 0xFF0000FF⟩ ∈ wordRows) (hb : bits = mkWord u o 0 0) :
    ∃ r ∈ wordRows, mkWord u o i 0 &&& r.mask = r.bits :=
  of_fields hr rfl (u' := 15) (o' := 15) (a' := 0) (b' := 0xFF) (by show (0xFF0000FF : Word) = _; decide) (by
    subst hb
    rw [and_fifteen, and_fifteen]
    simp)

theorem slot_row {u o : BitVec 4} {bits : Word} (i : Field16) (b : Byte) (hr : ⟨bits, 0xFF000000⟩ ∈ wordRows)
    (hb : bits = mkWord u o 0 0) : ∃ r ∈ wordRows, mkWord u o i b &&& r.mask = r.bits :=
  of_fields hr rfl (u' := 15) (o' := 15) (a' := 0) (b' := 0) (by show (0xFF000000 : Word) = _; decide) (by
    subst hb
    rw [and_fifteen, and_fifteen]
    simp)

theorem key_row {u o : BitVec 4} {bits : Word} (row : Fin 8) (col : Byte) (v : Bool) (hr : ⟨bits, 0xFF0000FE⟩ ∈ wordRows)
    (hb : bits = mkWord u o 0 0) : ∃ r ∈ wordRows, mkWord u o (keyA row col) (keyB v) &&& r.mask = r.bits :=
  of_fields hr rfl (u' := 15) (o' := 15) (a' := 0) (b' := 0xFE) (by show (0xFF0000FE : Word) = _; decide) (by
    subst hb
    have h3 : keyB v &&& 0xFE = 0 := by cases v <;> decide
    rw [and_fifteen, and_fifteen, h3]
    simp)

theorem fixed_row {w bits : Word} (hr : ⟨bits, 0xFFFFFFFF⟩ ∈ wordRows) (hb : bits = w) :
    ∃ r ∈ wordRows, w &&& r.mask = r.bits := ⟨_, hr, by subst hb; exact BitVec.and_allOnes⟩

theorem pushTx (b : Byte) : Statement (.pushTx b) := byte_row b (by decide : (⟨0x00000000, 0xFFFFFF00⟩ : WordRow) ∈ wordRows) (by decide)
theorem popTx : Statement (.popTx) := fixed_row (by decide : (⟨0x01000000, 0xFFFFFFFF⟩ : WordRow) ∈ wordRows) (by decide)
theorem isEmptyTx : Statement (.isEmptyTx) := fixed_row (by decide : (⟨0x02000000, 0xFFFFFFFF⟩ : WordRow) ∈ wordRows) (by decide)
theorem spaceTx : Statement (.spaceTx) := fixed_row (by decide : (⟨0x03000000, 0xFFFFFFFF⟩ : WordRow) ∈ wordRows) (by decide)
theorem rdHeadTx : Statement (.rdHeadTx) := fixed_row (by decide : (⟨0x04000000, 0xFFFFFFFF⟩ : WordRow) ∈ wordRows) (by decide)
theorem rdTailTx : Statement (.rdTailTx) := fixed_row (by decide : (⟨0x05000000, 0xFFFFFFFF⟩ : WordRow) ∈ wordRows) (by decide)
theorem wrHeadTx (i : Field16) : Statement (.wrHeadTx i) := index_row i (by decide : (⟨0x06000000, 0xFF0000FF⟩ : WordRow) ∈ wordRows) (by decide)
theorem wrTailTx (i : Field16) : Statement (.wrTailTx i) := index_row i (by decide : (⟨0x07000000, 0xFF0000FF⟩ : WordRow) ∈ wordRows) (by decide)
theorem rdSlotTx (i : Field16) : Statement (.rdSlotTx i) := index_row i (by decide : (⟨0x08000000, 0xFF0000FF⟩ : WordRow) ∈ wordRows) (by decide)
theorem wrSlotTx (i : Field16) (b : Byte) : Statement (.wrSlotTx i b) := slot_row i b (by decide : (⟨0x09000000, 0xFF000000⟩ : WordRow) ∈ wordRows) (by decide)
theorem pushRx (b : Byte) : Statement (.pushRx b) := byte_row b (by decide : (⟨0x10000000, 0xFFFFFF00⟩ : WordRow) ∈ wordRows) (by decide)
theorem popRx : Statement (.popRx) := fixed_row (by decide : (⟨0x11000000, 0xFFFFFFFF⟩ : WordRow) ∈ wordRows) (by decide)
theorem isEmptyRx : Statement (.isEmptyRx) := fixed_row (by decide : (⟨0x12000000, 0xFFFFFFFF⟩ : WordRow) ∈ wordRows) (by decide)
theorem spaceRx : Statement (.spaceRx) := fixed_row (by decide : (⟨0x13000000, 0xFFFFFFFF⟩ : WordRow) ∈ wordRows) (by decide)
theorem rdHeadRx : Statement (.rdHeadRx) := fixed_row (by decide : (⟨0x14000000, 0xFFFFFFFF⟩ : WordRow) ∈ wordRows) (by decide)
theorem rdTailRx : Statement (.rdTailRx) := fixed_row (by decide : (⟨0x15000000, 0xFFFFFFFF⟩ : WordRow) ∈ wordRows) (by decide)
theorem wrHeadRx (i : Field16) : Statement (.wrHeadRx i) := index_row i (by decide : (⟨0x16000000, 0xFF0000FF⟩ : WordRow) ∈ wordRows) (by decide)
theorem wrTailRx (i : Field16) : Statement (.wrTailRx i) := index_row i (by decide : (⟨0x17000000, 0xFF0000FF⟩ : WordRow) ∈ wordRows) (by decide)
theorem rdSlotRx (i : Field16) : Statement (.rdSlotRx i) := index_row i (by decide : (⟨0x18000000, 0xFF0000FF⟩ : WordRow) ∈ wordRows) (by decide)
theorem wrSlotRx (i : Field16) (b : Byte) : Statement (.wrSlotRx i b) := slot_row i b (by decide : (⟨0x19000000, 0xFF000000⟩ : WordRow) ∈ wordRows) (by decide)
theorem putc (b : Byte) : Statement (.putc b) := byte_row b (by decide : (⟨0x20000000, 0xFFFFFF00⟩ : WordRow) ∈ wordRows) (by decide)
theorem setModeRaw : Statement (.setModeRaw) := fixed_row (by decide : (⟨0x21000000, 0xFFFFFFFF⟩ : WordRow) ∈ wordRows) (by decide)
theorem setModeConsole : Statement (.setModeConsole) := fixed_row (by decide : (⟨0x21000001, 0xFFFFFFFF⟩ : WordRow) ∈ wordRows) (by decide)
theorem maskRx : Statement (.maskRx) := fixed_row (by decide : (⟨0x30000000, 0xFFFFFFFF⟩ : WordRow) ∈ wordRows) (by decide)
theorem maskTx : Statement (.maskTx) := fixed_row (by decide : (⟨0x30000001, 0xFFFFFFFF⟩ : WordRow) ∈ wordRows) (by decide)
theorem unmaskRx : Statement (.unmaskRx) := fixed_row (by decide : (⟨0x31000000, 0xFFFFFFFF⟩ : WordRow) ∈ wordRows) (by decide)
theorem unmaskTx : Statement (.unmaskTx) := fixed_row (by decide : (⟨0x31000001, 0xFFFFFFFF⟩ : WordRow) ∈ wordRows) (by decide)
theorem waitInput : Statement (.waitInput) := fixed_row (by decide : (⟨0x32000000, 0xFFFFFFFF⟩ : WordRow) ∈ wordRows) (by decide)
theorem waitInputTimeout : Statement (.waitInputTimeout) := fixed_row (by decide : (⟨0x32000001, 0xFFFFFFFF⟩ : WordRow) ∈ wordRows) (by decide)
theorem data (b : Byte) : Statement (.data b) := byte_row b (by decide : (⟨0x40000000, 0xFFFFFF00⟩ : WordRow) ∈ wordRows) (by decide)
theorem cmd (b : Byte) : Statement (.cmd b) := byte_row b (by decide : (⟨0x41000000, 0xFFFFFF00⟩ : WordRow) ∈ wordRows) (by decide)
theorem rxArrive (b : Byte) : Statement (.rxArrive b) := byte_row b (by decide : (⟨0x50000000, 0xFFFFFF00⟩ : WordRow) ∈ wordRows) (by decide)
theorem txReady : Statement (.txReady) := fixed_row (by decide : (⟨0x51000000, 0xFFFFFFFF⟩ : WordRow) ∈ wordRows) (by decide)
theorem keySet (row : Fin 8) (col : Byte) (v : Bool) : Statement (.keySet row col v) := key_row row col v (by decide : (⟨0x52000000, 0xFF0000FE⟩ : WordRow) ∈ wordRows) (by decide)
theorem keyEvent (row : Fin 8) (col : Byte) (p : Bool) : Statement (.keyEvent row col p) := key_row row col p (by decide : (⟨0x60000000, 0xFF0000FE⟩ : WordRow) ∈ wordRows) (by decide)
theorem setleds : Statement (.setleds) := byte_row _ (by decide : (⟨0x40000000, 0xFFFFFF00⟩ : WordRow) ∈ wordRows) (by decide)
theorem echo : Statement (.echo) := byte_row _ (by decide : (⟨0x40000000, 0xFFFFFF00⟩ : WordRow) ∈ wordRows) (by decide)
theorem scanset : Statement (.scanset) := byte_row _ (by decide : (⟨0x40000000, 0xFFFFFF00⟩ : WordRow) ∈ wordRows) (by decide)
theorem getid : Statement (.getid) := byte_row _ (by decide : (⟨0x40000000, 0xFFFFFF00⟩ : WordRow) ∈ wordRows) (by decide)
theorem setrep : Statement (.setrep) := byte_row _ (by decide : (⟨0x40000000, 0xFFFFFF00⟩ : WordRow) ∈ wordRows) (by decide)
theorem enable : Statement (.enable) := byte_row _ (by decide : (⟨0x40000000, 0xFFFFFF00⟩ : WordRow) ∈ wordRows) (by decide)
theorem disable : Statement (.disable) := byte_row _ (by decide : (⟨0x40000000, 0xFFFFFF00⟩ : WordRow) ∈ wordRows) (by decide)
theorem resend : Statement (.resend) := byte_row _ (by decide : (⟨0x40000000, 0xFFFFFF00⟩ : WordRow) ∈ wordRows) (by decide)
theorem reset : Statement (.reset) := byte_row _ (by decide : (⟨0x40000000, 0xFFFFFF00⟩ : WordRow) ∈ wordRows) (by decide)
theorem dnak (b : Byte) : Statement (.dnak b) := byte_row _ (by decide : (⟨0x40000000, 0xFFFFFF00⟩ : WordRow) ∈ wordRows) (by decide)
theorem scansetArg (b : Byte) : Statement (.scansetArg b) := byte_row _ (by decide : (⟨0x40000000, 0xFFFFFF00⟩ : WordRow) ∈ wordRows) (by decide)
theorem ledArg (b : Byte) : Statement (.ledArg b) := byte_row _ (by decide : (⟨0x40000000, 0xFFFFFF00⟩ : WordRow) ∈ wordRows) (by decide)
theorem cmdbyteArg (b : Byte) : Statement (.cmdbyteArg b) := byte_row _ (by decide : (⟨0x40000000, 0xFFFFFF00⟩ : WordRow) ∈ wordRows) (by decide)
theorem echoMouseArg (b : Byte) : Statement (.echoMouseArg b) := byte_row _ (by decide : (⟨0x40000000, 0xFFFFFF00⟩ : WordRow) ∈ wordRows) (by decide)
theorem sendToMouseArg (b : Byte) : Statement (.sendToMouseArg b) := byte_row _ (by decide : (⟨0x40000000, 0xFFFFFF00⟩ : WordRow) ∈ wordRows) (by decide)
theorem rdRam (a : BitVec 5) : Statement (.rdRam a) := byte_row _ (by decide : (⟨0x41000000, 0xFFFFFF00⟩ : WordRow) ∈ wordRows) (by decide)
theorem wrRam (a : BitVec 5) : Statement (.wrRam a) := byte_row _ (by decide : (⟨0x41000000, 0xFFFFFF00⟩ : WordRow) ∈ wordRows) (by decide)
theorem disAux : Statement (.disAux) := byte_row _ (by decide : (⟨0x41000000, 0xFFFFFF00⟩ : WordRow) ∈ wordRows) (by decide)
theorem enaAux : Statement (.enaAux) := byte_row _ (by decide : (⟨0x41000000, 0xFFFFFF00⟩ : WordRow) ∈ wordRows) (by decide)
theorem selfTest : Statement (.selfTest) := byte_row _ (by decide : (⟨0x41000000, 0xFFFFFF00⟩ : WordRow) ∈ wordRows) (by decide)
theorem disKbd : Statement (.disKbd) := byte_row _ (by decide : (⟨0x41000000, 0xFFFFFF00⟩ : WordRow) ∈ wordRows) (by decide)
theorem enaKbd : Statement (.enaKbd) := byte_row _ (by decide : (⟨0x41000000, 0xFFFFFF00⟩ : WordRow) ∈ wordRows) (by decide)
theorem echoMouse : Statement (.echoMouse) := byte_row _ (by decide : (⟨0x41000000, 0xFFFFFF00⟩ : WordRow) ∈ wordRows) (by decide)
theorem sendToMouse : Statement (.sendToMouse) := byte_row _ (by decide : (⟨0x41000000, 0xFFFFFF00⟩ : WordRow) ∈ wordRows) (by decide)
theorem cnak (b : Byte) : Statement (.cnak b) := byte_row _ (by decide : (⟨0x41000000, 0xFFFFFF00⟩ : WordRow) ∈ wordRows) (by decide)

end Sys2Proof.Laws.TableRow
end

