-- ==== Sys2Proof/Machine/Script.lean ====
section
/-! DEFINITION. Scripts: the spec's way to write a program for the block (30_encoding.md R128, R129), and its
pseudo-operations (R130). A script is put into the inputs and turns of a state (log 1, log 21, log 31). -/

namespace Sys2Proof.Machine

/-- One item of a script: a transaction, which is encoded, or an agent step, which is not (R128). -/
inductive ScriptItem where
  | transaction (i : Instr)
  | step (st : AgentStep)
  deriving DecidableEq, Repr

/-- The pseudo-operations (R130). -/
inductive Pseudo where
  | writeCmdByte (v : Byte)
  | writeRam (a : BitVec 5) (v : Byte)
  | readRam (a : BitVec 5)
  | setScanset (n : Byte)
  | getScanset
  | setLeds (v : Byte)
  | puts (bs : List Byte)
  | crit (r : RingId) (body : List ScriptItem)
  deriving DecidableEq, Repr

/-- The agent that takes a named step (R129). -/
def agentOfStep : AgentStep → Agent
  | .isrRx => .isrRx
  | .isrTx => .isrTx
  | .taskLf => .task
  | .taskWait => .task
  | .isrRow => .isrRow
  | .scanWake => .scan
  | .scanCol => .scan
  | .scanEnd => .scan

/-- `MASK s` and `UNMASK s` (R115). -/
def maskInstr : RingId → Instr
  | .rx => .maskRx
  | .tx => .maskTx

def unmaskInstr : RingId → Instr
  | .rx => .unmaskRx
  | .tx => .unmaskTx

/-- `PUTC b`, with `step TASK.LF` after a line feed in CONSOLE mode (R130). -/
def putsItem (mode : TxMode) (b : Byte) : List ScriptItem :=
  if mode = .console ∧ b = lineFeed then [.transaction (.putc b), .step .taskLf] else [.transaction (.putc b)]

/-- The expansion of a pseudo-operation, `mode` the TX front end's mode where PUTS stands (R130). -/
def expand (mode : TxMode) : Pseudo → List ScriptItem
  | .writeCmdByte v => [.transaction (.cmd 0x60), .transaction (.data v)]
  | .writeRam a v => [.transaction (.cmd (ramByte 3 a)), .transaction (.data v)]
  | .readRam a => [.transaction (.cmd (ramByte 1 a))]
  | .setScanset n => [.transaction (.data 0xF0), .transaction (.data n)]
  | .getScanset => [.transaction (.data 0xF0), .transaction (.data 0x00)]
  | .setLeds v => [.transaction (.data 0xED), .transaction (.data v)]
  | .puts bs => bs.flatMap (putsItem mode)
  | .crit r body => .transaction (maskInstr r) :: body ++ [.transaction (unmaskInstr r)]

/-- The word an item issues, if it is a transaction. -/
def ScriptItem.word : ScriptItem → Option Word
  | .transaction i => some (encode i)
  | .step _ => none

/-- The turn an item takes: its word's issuer's, or its step's agent's. DESIGN CHOICE (log 31): a step item gives its
agent's turn and its name checks nothing, so where the step is not enabled the agent takes what is due to it instead; the
spec does not say what such an item does. -/
def ScriptItem.turn : ScriptItem → Turn
  | .transaction i => .agent (issuerOf (encode i))
  | .step st => .agent (agentOfStep st)

/-- The state with a script to be run next, in its order, each item one turn (log 21, log 31). -/
def State.withScript (s : State) (script : List ScriptItem) : State :=
  { s with inputs := script.filterMap ScriptItem.word ++ s.inputs, turns := script.map ScriptItem.turn ++ s.turns }

end Sys2Proof.Machine
end

