-- ==== Sys2Proof/Tests/Slice0.lean ====
section
/-! SUPPORT. Our own tests: the WellFormed smoke, words written out from 30_encoding.md, single steps from the vectors of
95_test_vectors.md, and for every obligation with hypotheses a concrete state and operands that meet them. -/

namespace Sys2Proof.Tests

open Sys2Proof.Machine

/-! ## WellFormed: each check refuses an ill-formed term -/

theorem test_illformed_key_column :
    WellFormed Config.cfgA (.keySet 0 2 true) = false ∧ WellFormed Config.cfgA (.keyEvent 7 0xFF false) = false ∧
    WellFormed Config.cfgA (.keySet 7 1 true) = true ∧ WellFormed Config.cfgA (.keyEvent 0 0 false) = true := by decide

theorem test_illformed_fallback_data :
    (dataCommandBytes.all fun b => !WellFormed Config.cfgA (.dnak b)) = true ∧
    WellFormed Config.cfgA (.dnak 0xF1) = true := by decide

theorem test_illformed_fallback_cmd :
    WellFormed Config.cfgA (.cnak 0x20) = false ∧ WellFormed Config.cfgA (.cnak 0x7F) = false ∧
    (cmdCommandBytes.all fun b => !WellFormed Config.cfgA (.cnak b)) = true ∧
    WellFormed Config.cfgA (.cnak 0x40) = true := by decide

/-! ## Decoding: words written out bit by bit from 30_encoding.md -/

/-- Every operation of unit 0x0 (30_encoding.md R112). -/
theorem test_decode_ring_tx :
    decodeWord 0b0000_0000_0000000000000000_01000001 = .ok (.pushTx 0x41) ∧
    decodeWord 0b0000_0001_0000000000000000_00000000 = .ok .popTx ∧
    decodeWord 0b0000_0010_0000000000000000_00000000 = .ok .isEmptyTx ∧
    decodeWord 0b0000_0011_0000000000000000_00000000 = .ok .spaceTx ∧
    decodeWord 0b0000_0100_0000000000000000_00000000 = .ok .rdHeadTx ∧
    decodeWord 0b0000_0101_0000000000000000_00000000 = .ok .rdTailTx ∧
    decodeWord 0b0000_0110_1000000000000101_00000000 = .ok (.wrHeadTx 0x8005) ∧
    decodeWord 0b0000_0111_0000000000000011_00000000 = .ok (.wrTailTx 3) ∧
    decodeWord 0b0000_1000_0000000100000010_00000000 = .ok (.rdSlotTx 0x0102) ∧
    decodeWord 0b0000_1001_0000000000000010_01010101 = .ok (.wrSlotTx 2 0x55) := by decide

/-- Every operation of unit 0x1 (30_encoding.md R112). -/
theorem test_decode_ring_rx :
    decodeWord 0b0001_0000_0000000000000000_01000001 = .ok (.pushRx 0x41) ∧
    decodeWord 0b0001_0001_0000000000000000_00000000 = .ok .popRx ∧
    decodeWord 0b0001_0010_0000000000000000_00000000 = .ok .isEmptyRx ∧
    decodeWord 0b0001_0011_0000000000000000_00000000 = .ok .spaceRx ∧
    decodeWord 0b0001_0100_0000000000000000_00000000 = .ok .rdHeadRx ∧
    decodeWord 0b0001_0101_0000000000000000_00000000 = .ok .rdTailRx ∧
    decodeWord 0b0001_0110_1000000000000101_00000000 = .ok (.wrHeadRx 0x8005) ∧
    decodeWord 0b0001_0111_0000000000000011_00000000 = .ok (.wrTailRx 3) ∧
    decodeWord 0b0001_1000_0000000100000010_00000000 = .ok (.rdSlotRx 0x0102) ∧
    decodeWord 0b0001_1001_0000000000000010_01010101 = .ok (.wrSlotRx 2 0x55) := by decide

/-- Every operation of units 0x2 and 0x3 (R114, R115). -/
theorem test_decode_front_control :
    decodeWord 0b0010_0000_0000000000000000_00001010 = .ok (.putc 0x0A) ∧
    decodeWord 0b0010_0001_0000000000000000_00000000 = .ok .setModeRaw ∧
    decodeWord 0b0010_0001_0000000000000000_00000001 = .ok .setModeConsole ∧
    decodeWord 0b0011_0000_0000000000000000_00000000 = .ok .maskRx ∧
    decodeWord 0b0011_0000_0000000000000000_00000001 = .ok .maskTx ∧
    decodeWord 0b0011_0001_0000000000000000_00000000 = .ok .unmaskRx ∧
    decodeWord 0b0011_0001_0000000000000000_00000001 = .ok .unmaskTx ∧
    decodeWord 0b0011_0010_0000000000000000_00000000 = .ok .waitInput ∧
    decodeWord 0b0011_0010_0000000000000000_00000001 = .ok .waitInputTimeout := by decide

/-- Every operation of units 0x4, 0x5 and 0x6 (R116, R117, R118): column in w[23:16], row in w[15:8]. -/
theorem test_decode_ports_inputs :
    decodeWord 0b0100_0000_0000000000000000_11110100 = .ok (.data 0xF4) ∧
    decodeWord 0b0100_0001_0000000000000000_01100000 = .ok (.cmd 0x60) ∧
    decodeWord 0b0101_0000_0000000000000000_01000001 = .ok (.rxArrive 0x41) ∧
    decodeWord 0b0101_0001_0000000000000000_00000000 = .ok .txReady ∧
    decodeWord 0b0101_0010_0000000100000101_00000001 = .ok (.keySet 5 1 true) ∧
    decodeWord 0b0101_0010_1111111100000111_00000000 = .ok (.keySet 7 0xFF false) ∧
    decodeWord 0b0110_0000_0000000100000000_00000001 = .ok (.keyEvent 0 1 true) := by decide

/-- Every data-port command byte in NORMAL (R120). -/
theorem test_decode_data_commands :
    decodeData .normal 0b11101101 = .setleds ∧
    decodeData .normal 0b11101110 = .echo ∧
    decodeData .normal 0b11110000 = .scanset ∧
    decodeData .normal 0b11110010 = .getid ∧
    decodeData .normal 0b11110011 = .setrep ∧
    decodeData .normal 0b11110100 = .enable ∧
    decodeData .normal 0b11110101 = .disable ∧
    decodeData .normal 0b11111110 = .resend ∧
    decodeData .normal 0b11111111 = .reset ∧
    decodeData .normal 0b00010010 = .dnak 0x12 ∧
    decodeData .normal 0b11110001 = .dnak 0xF1 := by decide

/-- Every data-port argument byte (R121), whatever its value. -/
theorem test_decode_data_arguments :
    decodeData .awaitingScancodeSet 0b11110000 = .scansetArg 0xF0 ∧
    decodeData .awaitingLedByte 0b11101101 = .ledArg 0xED ∧
    decodeData .awaitingCommandByte 0b01000101 = .cmdbyteArg 0x45 ∧
    decodeData .echoMouse 0b01011010 = .echoMouseArg 0x5A ∧
    decodeData .sendToMouse 0b11110100 = .sendToMouseArg 0xF4 := by decide

/-- Every command-port byte (R122, R123). -/
theorem test_decode_cmd_bytes :
    decodeCmd 0b00100000 = .rdRam 0 ∧
    decodeCmd 0b00111111 = .rdRam 31 ∧
    decodeCmd 0b01100000 = .wrRam 0 ∧
    decodeCmd 0b01111111 = .wrRam 31 ∧
    decodeCmd 0b10100111 = .disAux ∧
    decodeCmd 0b10101000 = .enaAux ∧
    decodeCmd 0b10101010 = .selfTest ∧
    decodeCmd 0b10101101 = .disKbd ∧
    decodeCmd 0b10101110 = .enaKbd ∧
    decodeCmd 0b11010011 = .echoMouse ∧
    decodeCmd 0b11010100 = .sendToMouse ∧
    decodeCmd 0b01000000 = .cnak 0x40 ∧
    decodeCmd 0b00011111 = .cnak 0x1F ∧
    decodeCmd 0b11111111 = .cnak 0xFF := by decide

/-- Words that spell nothing (R131): a reserved unit, a reserved operation, a used field where none is, a selector above
1, a row above 7, a non-zero `B[7:1]` in a key position (vectors F3, TF7, CT7, S12). -/
theorem test_decode_refuses :
    decodeWord 0x70000000 = .error .reservedUnit ∧ decodeWord 0x0A000000 = .error .reservedOperation ∧
    decodeWord 0x01000001 = .error .unusedField ∧ decodeWord 0x20000100 = .error .unusedField ∧
    decodeWord 0x21000002 = .error .badSelector ∧ decodeWord 0x30000002 = .error .badSelector ∧
    decodeWord 0x33000000 = .error .reservedOperation ∧ decodeWord 0x52000801 = .error .keyRow ∧
    decodeWord 0x60000002 = .error .unusedField := by decide

/-- The table's rows as the host numbers their bits. -/
theorem test_table_words :
    decodeTableWord 32 0x52010101 = some (.keySet 1 1 true) ∧ decodeTableWord 32 0x70000000 = none ∧
    decodeTableWord 8 0xF4 = some .enable ∧ decodeTableWord 8 0x25 = some (.rdRam 5) ∧
    decodeTableWord 8 0xAA = some .selfTest ∧ decodeTableWord 8 0 = some (.dnak 0) := by decide

/-! ## Single steps, expected values from 95_test_vectors.md -/

/-- The next state of an outcome, if it has one. -/
def nextOf : Outcome → Option State
  | .next s => some s
  | .fault _ => none
  | .refused _ => none

/-- The refusal of an outcome, if it is one. -/
def refusalOf : Outcome → Option Refusal
  | .next _ => none
  | .fault _ => none
  | .refused r => some r

/-- The state after word `w`, presented to `s`. -/
def sent (w : Word) (s : State) : Option State := nextOf (step (present w s))

/-- The state after agent `a`'s turn. -/
def turned (a : Agent) (s : State) : Option State := nextOf (step { s with turns := [.agent a] })

/-- RESET with TX at `head`, `tail`, its slots as listed. -/
def txAt (head tail : Nat) (slots : Mem) : State := { State.reset with tx := { head := head, tail := tail, data := slots } }

/-- RESET with RX at `head`, `tail`, its slots as listed. -/
def rxAt (head tail : Nat) (slots : Mem) : State := { State.reset with rx := { head := head, tail := tail, data := slots } }

/-- RESET with the keyboard enabled and the controller command byte `v`. -/
def kbdOn (v : Byte) : State := { State.reset with kbc := { State.reset.kbc with enabled := true, ram := [(0, v)] } }

/-- RESET with the scanner waiting, armed with no row active. -/
def waiting : State :=
  { State.reset with scan := { State.reset.scan with
      state := .waitingForInterrupt, drive := .assertAll, rowsAtArm := 0xFF, irqEn := true } }

/-- RESET with `dstate` at `d`. -/
def inState (d : DState) : State := { State.reset with kbc := { State.reset.kbc with dstate := d } }

/-- RG4: PUSH wraps `head`. -/
theorem test_push_wraps :
    (sent 0x00000045 (txAt 3 3 [])).map (fun t => (t.tx, t.ret)) =
      some ({ head := 0, tail := 3, data := [(3, 0x45)] }, some (.bool true)) := by decide

/-- E1 row 5: a push to a full ring. -/
theorem test_push_full :
    (sent 0x00000044 (txAt 3 0 [(0, 0x11), (1, 0x22), (2, 0x33)])).map (fun t => (t.tx.head, t.tx.data, t.ret)) =
      some (3, [(0, 0x11), (1, 0x22), (2, 0x33)], some (.bool false)) := by decide

/-- E1 row 6: POP TX under its mask. -/
theorem test_pop_masked :
    (sent 0x01000000 { txAt 3 0 [(0, 0x11), (1, 0x22), (2, 0x33)] with maskTx := true }).map (fun t => (t.tx.tail, t.ret)) =
      some (1, some (.popped (some 0x11))) := by decide

/-- RG7: POP TX unmasked. -/
theorem test_pop_unmasked_faults :
    (sent 0x01000000 (txAt 1 0 [(0, 0x41)])).map (fun t => (t.fault, t.tx.tail)) =
      some (some { code := .ownership, word := 0x01000000 }, 0) := by decide

/-- RG8: PUSH RX unmasked. -/
theorem test_push_rx_unmasked_faults :
    (sent 0x10000041 State.reset).map (·.fault) = some (some { code := .ownership, word := 0x10000041 }) := by decide

/-- RG2, RG23: SPACE. -/
theorem test_space :
    (sent 0x03000000 State.reset).map (·.ret) = some (some (.count 3)) ∧
    (sent 0x03000000 (txAt 3 1 [])).map (·.ret) = some (some (.count 1)) := by decide

/-- RG10, RG11: the bounds check comes before the ownership check. -/
theorem test_bounds_before_ownership :
    (sent 0x06000400 State.reset).map (·.fault) = some (some { code := .indexBounds, word := 0x06000400 }) ∧
    (sent 0x16000400 State.reset).map (·.fault) = some (some { code := .indexBounds, word := 0x16000400 }) := by decide

/-- RG12, RG13, RG14: index writes by owner and by the other side. -/
theorem test_index_writes :
    (sent 0x16000200 State.reset).map (·.fault) = some (some { code := .ownership, word := 0x16000200 }) ∧
    (sent 0x17000100 (rxAt 2 0 [])).map (fun t => (t.rx.tail, t.fault)) = some (1, none) ∧
    (sent 0x07000100 (txAt 2 0 [])).map (·.fault) = some (some { code := .ownership, word := 0x07000100 }) := by decide

/-- RG15, RG16: WR_SLOT TX on an occupied and on a free slot. -/
theorem test_wr_slot_tx :
    (sent 0x09000055 (txAt 2 0 [])).map (·.fault) = some (some { code := .ownership, word := 0x09000055 }) ∧
    (sent 0x09000255 (txAt 2 0 [])).map (fun t => (t.tx, t.fault)) =
      some ({ head := 2, tail := 0, data := [(2, 0x55)] }, none) := by decide

/-- RG17, RG18: WR_SLOT RX on an occupied and on a free slot. -/
theorem test_wr_slot_rx :
    (sent 0x19000155 (rxAt 2 0 [])).map (fun t => (t.rx, t.fault)) =
      some ({ head := 2, tail := 0, data := [(1, 0x55)] }, none) ∧
    (sent 0x19000355 (rxAt 2 0 [])).map (·.fault) = some (some { code := .ownership, word := 0x19000355 }) := by decide

/-- RG21: RD_SLOT out of bounds. -/
theorem test_rd_slot_bounds :
    (sent 0x18000400 State.reset).map (·.fault) = some (some { code := .indexBounds, word := 0x18000400 }) := by decide

/-- TF1: a line feed in CONSOLE mode, and the LF that follows it. -/
theorem test_putc_line_feed :
    (sent 0x2000000A State.reset).map (fun t => (t.tx.data, t.front.lfPending, t.ret)) = some ([(0, 0x0D)], true, none) ∧
    ((sent 0x2000000A State.reset).bind (turned .task)).map (fun t => (t.tx.data, t.tx.head, t.ret)) =
      some ([(0, 0x0D), (1, 0x0A)], 2, some (.bool true)) := by decide

/-- TF3: one free slot takes the CR and drops the LF. -/
theorem test_putc_line_feed_split :
    ((sent 0x2000000A (txAt 2 0 [])).bind (turned .task)).map (fun t => (t.tx.data, t.tx.head, t.ret)) =
      some ([(2, 0x0D)], 3, some (.bool false)) := by decide

/-- TF2: RAW mode. -/
theorem test_putc_raw :
    ((sent 0x21000000 State.reset).bind (sent 0x2000000A)).map (fun t => (t.tx.data, t.ret)) =
      some ([(0, 0x0A)], some (.bool true)) := by decide

/-- TF8: ISR_RX on a full ring. -/
theorem test_isr_rx_full :
    (turned .isrRx { rxAt 3 0 [] with port := { rxPending := true, rxByte := 0x44, txReady := true } }).map
      (fun t => (t.rx, t.out.rxDropped, t.evInput, t.port.rxPending)) =
      some ({ head := 3, tail := 0, data := [] }, 1, true, false) := by decide

/-- TF4's ISR_TX step: the oldest byte goes to `tx_wire`. -/
theorem test_isr_tx :
    (turned .isrTx (txAt 2 0 [(0, 0x68), (1, 0x69)])).map (fun t => (t.tx.tail, t.out.wire, t.port.txReady)) =
      some (1, [0x68], false) := by decide

/-- TF9, TF11: ISR_TX is not enabled. -/
theorem test_isr_tx_not_enabled :
    agentStepOf .isrTx State.reset = none ∧
    agentStepOf .isrTx { txAt 1 0 [(0, 0x41)] with maskTx := true } = none := by decide

/-- S1: SCAN.COL with two keys closed. -/
theorem test_scan_col :
    (turned .scan { kbdOn 0x60 with keys := [(0, 0x03)] }).map (fun t => (t.out.host, t.scan.prev, t.scan.col)) =
      some ([(.kbd, 0x1E), (.kbd, 0xE0), (.kbd, 0x48)], [(0, 0x03)], 1) := by decide

/-- S2: a key outside VALID_MASK reports nothing. -/
theorem test_scan_col_masked_key :
    (turned .scan { kbdOn 0x60 with keys := [(1, 0x20)], scan := { State.reset.scan with col := 1 } }).map
      (fun t => (t.out.edges, t.scan.prev, sampleRows t)) = some ([], [], 0xDF) := by decide

/-- S3: SCAN.END arms at the idle limit. -/
theorem test_scan_end_arms :
    (turned .scan { State.reset with scan := { State.reset.scan with col := 2, idle := 1 } }).map
      (fun t => (t.scan.drive, t.scan.rowsAtArm, t.scan.irqEn, t.scan.state)) =
      some (.assertAll, 0xFF, true, .waitingForInterrupt) := by decide

/-- S4: a held key resets the idle count. -/
theorem test_scan_end_held :
    (turned .scan { State.reset with scan := { State.reset.scan with col := 2, idle := 1, prev := [(0, 0x01)] } }).map
      (fun t => (t.scan.idle, t.scan.col, t.scan.state)) = some (0, 0, .polling) := by decide

/-- S5, S6: the row-change latch is set and stays set. -/
theorem test_key_set_latches :
    (sent 0x52010101 waiting).map (fun t => (t.scan.irqPending, sampleRows t)) = some (true, 0xFD) ∧
    ((sent 0x52010101 waiting).bind (sent 0x52010100)).map (fun t => (t.scan.irqPending, sampleRows t)) =
      some (true, 0xFF) := by decide

/-- S12: a column outside the matrix. -/
theorem test_key_set_column_refused :
    refusalOf (step (present 0x52020001 State.reset)) = some .keyColumn := by decide

/-- S7: ISR_ROW, then SCAN.WAKE. -/
theorem test_row_interrupt_and_wake :
    ((sent 0x52010101 waiting).bind (turned .isrRow)).map (fun t => (t.scan.irqEn, t.scan.irqPending, t.evKbwake)) =
      some (false, false, true) ∧
    (((sent 0x52010101 waiting).bind (turned .isrRow)).bind (turned .scan)).map
      (fun t => (t.scan.state, t.scan.col, t.evKbwake, t.scan.drive)) = some (.polling, 0, false, .tristateAll) := by decide

/-- DP8: ENABLE. -/
theorem test_enable :
    (sent 0x400000F4 State.reset).map (fun t => (t.out.host, t.out.ctl)) = some ([(.kbd, 0xFA)], [.kbEnable true]) ∧
    (sent 0x400000F4 State.reset).map (fun t => (t.kbc.enabled, t.kbc.ram, cachedResponse t.kbc)) =
      some (true, [(0, 0x70)], [0xFA]) := by decide

/-- DP6: GETID, then RESEND. -/
theorem test_getid_resend :
    ((sent 0x400000F2 State.reset).bind (sent 0x400000FE)).map (fun t => t.out.host.map (·.2)) =
      some [0xFA, 0xAB, 0x83, 0xFA, 0xAB, 0x83] := by decide

/-- DP10: RESEND with nothing cached. -/
theorem test_resend_empty :
    (sent 0x400000FE State.reset).map (fun t => (t.out.host, t.kbc.resendLen)) = some ([(.kbd, 0xFE)], 0) := by decide

/-- DP3, DP5: the scan-code-set argument, a query and an invalid set. -/
theorem test_scanset_argument :
    (sent 0x40000000 (inState .awaitingScancodeSet)).map (fun t => t.out.host) = some [(.kbd, 0xFA), (.kbd, 0x02)] ∧
    (sent 0x40000003 (inState .awaitingScancodeSet)).map (fun t => (t.out.host, t.kbc.codeSet, t.kbc.dstate)) =
      some ([(.kbd, 0xFE)], .set2, .normal) := by decide

/-- DP13: a command byte taken as the LED argument. -/
theorem test_led_argument :
    (sent 0x400000F4 (inState .awaitingLedByte)).map (fun t => (t.out.host, t.kbc.enabled, t.kbc.dstate)) =
      some ([(.kbd, 0xFA)], false, .normal) := by decide

/-- DP16: the command-byte argument 0x01 to `ram[0]`. -/
theorem test_cmdbyte_argument :
    (sent 0x40000001 (inState .awaitingCommandByte)).map (fun t => (t.kbc.ram, t.out.ctl, t.out.host)) =
      some ([(0, 0x01)], [.kbdIrqEnable true, .kbEnable true], []) := by decide

/-- DP14, DP15: the auxiliary argument bytes. -/
theorem test_mouse_arguments :
    (sent 0x4000005A (inState .echoMouse)).map (fun t => t.out.host) = some [(.aux, 0x5A)] ∧
    (sent 0x400000F4 (inState .sendToMouse)).map (fun t => (t.out.aux, t.kbc.enabled)) = some ([0xF4], false) := by decide

/-- CP1, CP7, CP8: answers of the command port. -/
theorem test_cmd_answers :
    (sent 0x41000020 State.reset).map (fun t => t.out.host) = some [(.kbd, 0x70)] ∧
    (sent 0x410000AA State.reset).map (fun t => t.out.host) = some [(.kbd, 0x55)] ∧
    (sent 0x41000000 State.reset).map (fun t => t.out.host) = some [(.kbd, 0xFE)] := by decide

/-- CP3: WR_RAM 5, its value, and the value read back. -/
theorem test_wr_ram :
    ((sent 0x41000065 State.reset).bind (sent 0x400000AB)).map
      (fun t => (memRead 5 t.kbc.ram, t.kbc.ramAddr, t.out.ctl)) = some (0xAB, 5, []) := by decide

/-- CP4, CP6: the bit commands of byte 0. -/
theorem test_cmd_bits :
    (sent 0x410000AE State.reset).map (fun t => (t.kbc.ram, t.out.ctl)) = some ([(0, 0x60)], [.kbEnable true]) ∧
    (sent 0x410000A8 State.reset).map (fun t => (t.kbc.ram, t.out.ctl)) = some ([(0, 0x50)], []) := by decide

/-- T2, T3, T5: releases in Set 1 and in Set 2. -/
theorem test_key_event_release :
    (sent 0x60000000 (kbdOn 0x60)).map (fun t => t.out.host.map (·.2)) = some [0x9E] ∧
    (sent 0x60000100 (kbdOn 0x60)).map (fun t => t.out.host.map (·.2)) = some [0xE0, 0xC8] ∧
    (sent 0x60000100 (kbdOn 0x20)).map (fun t => t.out.host.map (·.2)) = some [0xF0, 0xE0, 0x75] := by decide

/-- T9, T10: UNIMPLEMENTED takes precedence over DROPPED_DISABLED. -/
theorem test_key_event_status :
    (sent 0x60000001 State.reset).map (·.ret) = some (some (.status .droppedDisabled)) ∧
    (sent 0x60010101 State.reset).map (·.ret) = some (some (.status .unimplemented)) := by decide

/-- CT1, CT3: WAIT_INPUT holds without the event and completes with it. -/
theorem test_wait_input :
    (sent 0x32000000 State.reset).map (fun t => (t.wait, t.ret)) = some (some false, none) ∧
    (sent 0x32000000 { State.reset with evInput := true }).map (fun t => (t.wait, t.ret, t.evInput)) =
      some (none, some .event, false) := by decide

/-- CT5: a masked RX source keeps ISR_RX off, and UNMASK lets it push. -/
theorem test_mask_rx :
    ((sent 0x30000000 State.reset).bind (sent 0x50000041)).map (agentStepOf .isrRx) = some none ∧
    ((((sent 0x30000000 State.reset).bind (sent 0x50000041)).bind (sent 0x31000000)).bind (turned .isrRx)).map
      (fun t => t.rx.data) = some [(0, 0x41)] := by decide

/-- F1: after a fault no agent steps, and a reset starts a new run. -/
theorem test_fault_halts :
    ((sent 0x10000041 State.reset).bind (sent 0x50000041)) = none ∧
    ((sent 0x10000041 State.reset).bind fun t => nextOf (step { t with turns := [.reset] })).map
      (fun t => (t.fault, t.kbc.ram)) = some (none, [(0, 0x70)]) := by decide

/-- The pseudo-operations (30_encoding.md R130), and PUTS of a line feed from RESET, two turns. -/
theorem test_pseudo_operations :
    expand .console (.writeRam 5 0xAB) = [.transaction (.cmd 0x65), .transaction (.data 0xAB)] ∧
    expand .console (.readRam 31) = [.transaction (.cmd 0x3F)] ∧
    expand .raw (.crit .tx [.transaction .popTx]) =
      [.transaction .maskTx, .transaction .popTx, .transaction .unmaskTx] ∧
    ((nextOf (step (State.reset.withScript (expand .console (.puts [0x0A]))))).bind fun t => nextOf (step t)).map
      (fun t => (t.tx.data, t.ret, t.inputs, t.turns)) =
      some ([(0, 0x0D), (1, 0x0A)], some (.bool true), [], []) := by decide

/-! ## Witnesses: for every obligation with hypotheses, a state and operands that meet them -/

theorem test_witness_EncodedTransactionsDecodeBack :
    isTransaction (.keySet 7 0xFF true) = true ∧ isTransaction (.wrSlotRx 0xFFFF 0xFF) = true := by decide

theorem test_witness_EncodedHostBytesDecodeBack :
    (isTransaction (.dnak 0xFF) = false ∧ WellFormed Config.cfgA (.dnak 0x00) = true ∧
      (∀ q, tableState (.dnak 0x00) = some q → DState.normal = q)) ∧
    (isTransaction (.wrRam 31) = false ∧ WellFormed Config.cfgA (.wrRam 31) = true ∧
      (∀ q, tableState (.wrRam 31) = some q → DState.echoMouse = q)) := by
  refine ⟨⟨by decide, by decide, ?_⟩, by decide, by decide, ?_⟩
  · intro q h; cases h; rfl
  · intro q h; cases h

theorem test_witness_DecodedWordsEncodeBack :
    decodeIn .awaitingLedByte 0x400000ED = .ok (.ledArg 0xED) ∧ decodeIn .sendToMouse 0x410000FF = .ok (.cnak 0xFF) ∧
    decodeIn .normal 0x40000000 = .ok (.dnak 0) ∧ decodeIn .normal 0x52FF0701 = .ok (.keySet 7 0xFF true) := by decide

theorem test_witness_DecoderAcceptsExactlyTheTable :
    decodeWord 0x52000701 = .ok (.keySet 7 0 true) ∧ decodeWord 0x52000801 = .error .keyRow ∧
    decodeWord 0x60FF0700 = .ok (.keyEvent 7 0xFF false) ∧ decodeWord 0x6000FF00 = .error .keyRow := by decide

theorem test_witness_StepRunsTheDecodedTransaction :
    let s := present 0x00000041 State.reset
    s.turns = [.agent .task] ∧ s.fault = none ∧ agentStepOf .task s = none ∧ holds .task s = false ∧
      nextInput .task s.inputs = some (0x00000041, []) ∧ decodeWord 0x00000041 = .ok (.pushTx 0x41) := by decide

theorem test_witness_StepRunsTheAgentsStep :
    let s := { State.reset with turns := [.agent .scan] }
    s.turns = [.agent .scan] ∧ s.fault = none ∧ agentStepOf .scan s = some .scanCol := by decide

theorem test_witness_PresentedTableWordRuns :
    State.reset.fault = none ∧ State.reset.front.lfPending = false ∧ State.reset.wait = none ∧
    State.reset.kbc.dstate = .normal ∧ decodeTableWord 8 0x7F = some (.wrRam 31) ∧
    decodeTableWord 8 0xFF = some .reset ∧ decodeTableWord 32 0x60010101 = some (.keyEvent 1 1 true) := by decide

theorem test_witness_WordsThatSpellNothingAreRefused :
    (let s := present 0xF0000000 State.reset
     s.turns = [.agent .harness] ∧ s.fault = none ∧ agentStepOf .harness s = none ∧ holds .harness s = false ∧
      nextInput .harness s.inputs = some (0xF0000000, []) ∧ decodeWord 0xF0000000 = .error .reservedUnit) ∧
    State.reset.cfg.ncol ≤ (2 : Byte).toNat ∧ State.reset.cfg.ncol ≤ (0xFF : Byte).toNat := by decide

theorem test_witness_PushStoresAndAdvances :
    ((txAt 2 0 []).tx.head + 1) % (txAt 2 0 []).cfg.capTx ≠ (txAt 2 0 []).tx.tail ∧
    ((txAt 3 0 []).tx.head + 1) % (txAt 3 0 []).cfg.capTx = (txAt 3 0 []).tx.tail ∧
    (let s := { rxAt 3 3 [] with maskRx := true }
     s.maskRx = true ∧ (s.rx.head + 1) % s.cfg.capRx ≠ s.rx.tail) ∧
    (let s := { rxAt 2 3 [] with maskRx := true }
     s.maskRx = true ∧ (s.rx.head + 1) % s.cfg.capRx = s.rx.tail) := by decide

theorem test_witness_PopTakesTheOldest :
    State.reset.rx.head = State.reset.rx.tail ∧
    ((rxAt 0 3 [(3, 0x41)]).rx.head ≠ 3 ∧ memFind 3 (rxAt 0 3 [(3, 0x41)]).rx.data = some 0x41) ∧
    ((rxAt 0 3 []).rx.head ≠ 3 ∧ memFind 3 (rxAt 0 3 []).rx.data = none) ∧
    (let s := { State.reset with maskTx := true }
     s.maskTx = true ∧ s.tx.head = s.tx.tail) ∧
    (let s := { txAt 1 0 [(0, 0x41)] with maskTx := true }
     s.maskTx = true ∧ s.tx.head ≠ s.tx.tail ∧ memFind s.tx.tail s.tx.data = some 0x41) := by decide

theorem test_witness_RingQueriesOnlyAnswer :
    (txAt 3 0 []).tx.head < (txAt 3 0 []).cfg.capTx ∧ (rxAt 0 3 []).rx.head < (rxAt 0 3 []).cfg.capRx := by decide

theorem test_witness_SpaceComplementsCount :
    2 ≤ 2 ∧ (Machine.Ring.mk 1 0 []).head < 2 ∧ (Machine.Ring.mk 1 0 []).tail < 2 ∧ (Machine.Ring.mk 65535 0 []).head < 65536 := by decide

theorem test_witness_IndexWritesTakeEffect :
    (3 : Field16).toNat < State.reset.cfg.capTx ∧ (3 : Field16).toNat < State.reset.cfg.capRx ∧
    ({ State.reset with maskTx := true }).maskTx = true ∧ ({ State.reset with maskRx := true }).maskRx = true := by decide

theorem test_witness_SlotReadsAnswerTheSlot :
    ((3 : Field16).toNat < (txAt 0 0 [(3, 0x41)]).cfg.capTx ∧ memFind 3 (txAt 0 0 [(3, 0x41)]).tx.data = some 0x41) ∧
    ((0 : Field16).toNat < State.reset.cfg.capRx ∧ memFind 0 State.reset.rx.data = none) := by decide

theorem test_witness_SlotWritesStoreOneByte :
    ((2 : Field16).toNat < (txAt 2 0 []).cfg.capTx ∧ ringOccupied (txAt 2 0 []).cfg.capTx (txAt 2 0 []).tx 2 = false) ∧
    ((1 : Field16).toNat < (rxAt 2 0 []).cfg.capRx ∧ ringOccupied (rxAt 2 0 []).cfg.capRx (rxAt 2 0 []).rx 1 = true) ∧
    (let s := { rxAt 2 0 [] with maskRx := true }
     (3 : Field16).toNat < s.cfg.capRx ∧ s.maskRx = true) := by decide

theorem test_witness_IndexBeyondCapacityFaults :
    indexOperandOf (.wrSlotTx 4 0x55) = some (.tx, 4) ∧ State.reset.cap .tx ≤ (4 : Field16).toNat ∧
    indexOperandOf (.wrTailRx 0xFFFF) = some (.rx, 0xFFFF) ∧ State.reset.cap .rx ≤ (0xFFFF : Field16).toNat := by decide

theorem test_witness_OwnershipBreachFaults :
    State.reset.maskRx = false ∧ State.reset.maskTx = false ∧ (3 : Field16).toNat < State.reset.cfg.capRx ∧
    ((1 : Field16).toNat < (txAt 2 0 []).cfg.capTx ∧ ringOccupied (txAt 2 0 []).cfg.capTx (txAt 2 0 []).tx 1 = true) ∧
    ringOccupied (rxAt 2 0 []).cfg.capRx (rxAt 2 0 []).rx 2 = false := by decide

theorem test_witness_OccupiedSlotsAreTheQueue :
    (Machine.Ring.mk 0 3 []).head < 4 ∧ (Machine.Ring.mk 0 3 []).tail < 4 ∧ ringOccupied 4 (Machine.Ring.mk 0 3 []) 3 = true ∧
    ringOccupied 4 (Machine.Ring.mk 0 3 []) 0 = false := by decide

theorem test_witness_QueueIsFirstInFirstOut :
    State.reset.cfg.wf = true ∧ ringsInBounds (rxAt 3 3 []) = true ∧ ringEmpty ((rxAt 3 3 []).ring .rx) = true ∧
    (runQueue .rx [some 1, some 2, none] (rxAt 3 3 [])).2.1 = [1] := by decide

theorem test_witness_FaultsArePrecise :
    ∃ t, exec (.pushRx 0x41) State.reset = .next t ∧ t.fault ≠ State.reset.fault := ⟨_, rfl, by decide⟩

theorem test_witness_UnmaskedIsrIndicesStay :
    (∃ t, exec (.pushTx 0x41) State.reset = .next t) ∧ State.reset.maskRx = false ∧ State.reset.maskTx = false :=
  ⟨⟨_, rfl⟩, by decide, by decide⟩

theorem test_witness_PutcPushesOneByte :
    (let s := { State.reset with front := { State.reset.front with mode := .raw } }
     s.front.mode = .raw ∧ (s.tx.head + 1) % s.cfg.capTx ≠ s.tx.tail) ∧
    ((0x0D : Byte) ≠ 0x0A ∧ ((txAt 3 0 []).tx.head + 1) % (txAt 3 0 []).cfg.capTx = (txAt 3 0 []).tx.tail) := by decide

theorem test_witness_PutcOfLineFeedTakesTwoSteps :
    State.reset.front.mode = .console ∧ (State.reset.tx.head + 1) % State.reset.cfg.capTx ≠ State.reset.tx.tail ∧
    ((txAt 3 0 []).front.mode = .console ∧ ((txAt 3 0 []).tx.head + 1) % (txAt 3 0 []).cfg.capTx = (txAt 3 0 []).tx.tail) ∧
    (let s := { txAt 3 0 [] with front := { mode := .console, lfPending := true, ok := true } }
     s.front.lfPending = true ∧ (s.tx.head + 1) % s.cfg.capTx = s.tx.tail) ∧
    (let s := { txAt 2 0 [] with front := { mode := .console, lfPending := true, ok := true } }
     s.front.lfPending = true ∧ (s.tx.head + 1) % s.cfg.capTx ≠ s.tx.tail) := by decide

theorem test_witness_LineFeedWithRoomIsNotSplit :
    State.reset.cfg.wf = true ∧ ringsInBounds (txAt 1 0 [(0, 0x41)]) = true ∧ (txAt 1 0 [(0, 0x41)]).front.mode = .console ∧
    2 ≤ ringSpace (txAt 1 0 [(0, 0x41)]).cfg.capTx (txAt 1 0 [(0, 0x41)]).tx ∧
    (nextOf (exec (.putc 0x0A) (txAt 1 0 [(0, 0x41)]))).isSome = true := by decide

theorem test_witness_WaitWithEventCompletes : ({ State.reset with evInput := true }).evInput = true := by decide

theorem test_witness_WaitWithoutEventHolds : State.reset.evInput = false := by decide

theorem test_witness_HeldAndMaskedAgentsPass :
    State.reset.fault = none ∧
    (let s := { State.reset with wait := some false, turns := [.agent .task] }
     s.turns = [.agent .task] ∧ s.front.lfPending = false ∧ s.wait = some false ∧ s.evInput = false) ∧
    (let s := { State.reset with maskRx := true, turns := [.agent .isrRx] }
     s.turns = [.agent .isrRx] ∧ s.maskRx = true) ∧
    (let s := { State.reset with maskTx := true, turns := [.agent .isrTx] }
     s.turns = [.agent .isrTx] ∧ s.maskTx = true) ∧
    (let s := { State.reset with wait := some true, turns := [.agent .task] }
     s.turns = [.agent .task] ∧ s.front.lfPending = false ∧ s.wait = some true ∧ s.evInput = false ∧
       ringsInBounds s = true) ∧
    (let s := { State.reset with wait := some true, evInput := true, turns := [.agent .task] }
     s.turns = [.agent .task] ∧ s.front.lfPending = false ∧ s.wait = some true ∧ s.evInput = true ∧
       ringsInBounds s = true) := by decide

theorem test_witness_TransportInputsAreLatched :
    State.reset.port.rxPending = false ∧
    ({ State.reset with port := { rxPending := true, rxByte := 0x41, txReady := true } }).port.rxPending = true := by decide

theorem test_witness_ReceiveInterruptServesOneByte :
    ((rxAt 2 0 []).rx.head + 1) % (rxAt 2 0 []).cfg.capRx ≠ (rxAt 2 0 []).rx.tail ∧
    ((rxAt 3 0 []).rx.head + 1) % (rxAt 3 0 []).cfg.capRx = (rxAt 3 0 []).rx.tail := by decide

theorem test_witness_TransmitInterruptSendsTheOldest :
    (txAt 0 3 [(3, 0x41)]).tx.head ≠ (txAt 0 3 [(3, 0x41)]).tx.tail ∧
    memFind 3 (txAt 0 3 [(3, 0x41)]).tx.data = some 0x41 ∧ memFind 3 (txAt 0 3 []).tx.data = none := by decide

theorem test_witness_RepeatedResendLaw :
    ∃ s, exec .getid State.reset = .next s ∧ answered State.reset s [0xFA, 0xAB, 0x83] true .normal ∧
      ([0xFA, 0xAB, 0x83] : List Byte) ≠ [] := by
  refine ⟨_, rfl, ⟨?_, ?_, ?_⟩, by decide⟩
  · rfl
  · intro _; exact ⟨by decide, by decide⟩
  · intro h; cases h

theorem test_witness_ScanSetArgument : 2 < (3 : Byte).toNat ∧ 2 < (0xFF : Byte).toNat := by decide

theorem test_witness_HostBytesSeeOnlyTheTranslator :
    let s := txAt 2 0 []
    State.reset.cfg = s.cfg ∧ State.reset.kbc = s.kbc ∧ State.reset.out = s.out ∧
      (nextOf (exec (.data 0xF4) State.reset)).isSome = true ∧ (nextOf (exec (.data 0xF4) s)).isSome = true := by decide

theorem test_witness_AnswersWithoutEffect :
    isDnakByte 0x00 = true ∧ isCnakByte 0x1F = true ∧ isCnakByte 0x40 = true ∧ isCnakByte 0xFF = true ∧
    (0x20 ≤ (0x20 : Byte).toNat ∧ (0x3F : Byte).toNat ≤ 0x3F) := by decide

theorem test_witness_CommandPortArgumentStates : 0x60 ≤ (0x60 : Byte).toNat ∧ (0x7F : Byte).toNat ≤ 0x7F := by decide

theorem test_witness_ControllerRamWriteLaw : (31 : BitVec 5) ≠ 0 ∧ (0 : BitVec 5) = 0 := by decide

theorem test_witness_KeyEventEmitsItsCode :
    (1 : Byte).toNat < State.reset.cfg.ncol ∧ makeCode State.reset.cfg .set1 1 1 = none ∧
    (makeCode State.reset.cfg .set1 0 1 = some (.one 0x39) ∧ State.reset.kbc.enabled = false) ∧
    (makeCode (kbdOn 0x20).cfg .set2 1 0 = some (.two 0xE0 0x75) ∧ (kbdOn 0x20).kbc.enabled = true) := by decide

theorem test_witness_SampledRowsAreTheClosedSwitches :
    (let s := { State.reset with scan := { State.reset.scan with drive := .col 1 } }
     s.scan.drive = .col 1 ∧ 1 < s.cfg.ncol) ∧
    waiting.scan.drive = .assertAll ∧ State.reset.scan.drive = .tristateAll := by decide

theorem test_witness_KeySetMovesOneSwitch : (1 : Byte).toNat < State.reset.cfg.ncol := by decide

theorem test_witness_ScanColumnReportsExactlyTheEdges :
    State.reset.scan.state = .polling ∧ State.reset.scan.col < State.reset.cfg.ncol := by decide

theorem test_witness_ScanEndCountsOrArms :
    (let s := { State.reset with scan := { State.reset.scan with col := 2, idle := 1 } }
     s.scan.state = .polling ∧ s.scan.col = s.cfg.ncol ∧ (∀ c, c < s.cfg.ncol → memRead c s.scan.prev = 0) ∧
       s.cfg.pollIdleLimit ≤ s.scan.idle + 1) ∧
    (let s := { State.reset with scan := { State.reset.scan with col := 2, prev := [(1, 0x01)] } }
     (∃ c, c < s.cfg.ncol ∧ memRead c s.scan.prev ≠ 0) ∧ 0 < s.cfg.pollIdleLimit) := by decide

theorem test_witness_RowInterruptWakesTheScanner :
    waiting.scan.state = .waitingForInterrupt ∧ waiting.evKbwake = false := by decide

theorem test_witness_WaitingEndsOnlyByWake :
    (nextOf (step (present 0x52010101 waiting))).isSome = true ∧ waiting.scan.state = .waitingForInterrupt ∧
    (present 0x52010101 waiting).turns.head? ≠ some .reset ∧
    (let s := { waiting with evKbwake := true, turns := [.agent .isrRx] }
     (nextOf (step s)).map (fun t => t.scan.state) = some .waitingForInterrupt) ∧
    (let s := { waiting with evKbwake := true, turns := [.agent .scan] }
     (nextOf (step s)).map (fun t => t.scan.state) = some .polling) := by decide

theorem test_witness_RegistersHaveTheirWriters :
    (∃ t, exec .maskRx State.reset = .next t ∧ t.maskRx ≠ State.reset.maskRx) ∧
    (∃ t, exec .unmaskTx { State.reset with maskTx := true } = .next t ∧ t.maskTx ≠ true) ∧
    (∃ t, exec .setModeRaw State.reset = .next t ∧ t.front.mode ≠ State.reset.front.mode) ∧
    (∃ t, exec (.scansetArg 1) State.reset = .next t ∧ t.kbc.codeSet ≠ State.reset.kbc.codeSet) ∧
    (∃ t, exec (.cmd 0x7F) State.reset = .next t ∧ t.kbc.ramAddr ≠ State.reset.kbc.ramAddr) ∧
    (∃ t, exec (.keySet 7 1 true) State.reset = .next t ∧ t.keys ≠ State.reset.keys) :=
  ⟨⟨_, rfl, by decide⟩, ⟨_, rfl, by decide⟩, ⟨_, rfl, by decide⟩, ⟨_, rfl, by decide⟩, ⟨_, rfl, by decide⟩,
    ⟨_, rfl, by decide⟩⟩

theorem test_witness_StorageInvariantKept :
    storageOk State.reset = true ∧ (nextOf (step (present 0x00000041 State.reset))).isSome = true := by decide

theorem test_witness_InvariantFaultIsUnreachable :
    State.reset.cfg.wf = true ∧ ringsInBounds (present 0x10000041 State.reset) = true ∧ State.reset.fault = none ∧
    (sent 0x10000041 State.reset).map (·.fault) = some (some { code := .ownership, word := 0x10000041 }) := by decide

theorem test_witness_ScannerInvariantKept :
    scannerOk waiting = true ∧ prevMasked waiting = true ∧ scannerOk State.reset = true ∧
    (nextOf (step (present 0x52010101 waiting))).isSome = true := by decide

theorem test_witness_SignalsFollowTheEnables :
    signalsOk State.reset = true ∧ resendOk State.reset = true ∧ taskOk State.reset = true ∧
    (nextOf (step (present 0x400000F4 State.reset))).isSome = true := by decide

theorem test_witness_ResetStateIsGood :
    Config.cfgA.wf = true ∧ Memory.wf Config.cfgA.ncol [(0, 0xFF), (1, 0x20)] = true := by decide

theorem test_witness_OnlyResetLeavesAFault :
    (let s := { State.reset with fault := some { code := .ownership, word := 0x10000041 } }
     s.fault = some { code := .ownership, word := 0x10000041 } ∧ s.turns.head? ≠ some .reset) ∧
    ({ State.reset with turns := [.reset] }).turns = [.reset] := by decide

theorem test_witness_RunIsOverWhenNothingIsEnabled :
    scannerOk waiting = true ∧ waiting.fault = none ∧ runOver waiting = true ∧ scannerOk State.reset = true ∧
    runOver State.reset = false ∧ runOver { waiting with wait := some false } = true ∧
    runOver { waiting with wait := some false, evInput := true } = false ∧
    runOver { waiting with wait := some true } = false := by decide

end Sys2Proof.Tests
end

