-- ==== Sys2Proof/Proofs/RingQuantities.lean ====
section
/-! The derived quantities of a ring (10_state.md R34) as plain arithmetic: with both indices below the capacity each
remainder wraps at most once, so it has one closed form while `head` is at or past `tail` and one after `head` wrapped. -/

namespace Sys2Proof.Machine

section
variable {cap : Nat} {r : Ring}

/-! ## The remainders of R34 over the integers -/

theorem ringCount_cast (htail : r.tail < cap) : (ringCount cap r : Int) = ((r.head : Int) - r.tail) % cap := by
  have hdist : ((r.head + cap - r.tail : Nat) : Int) = (r.head - r.tail) + cap := by omega
  rw [ringCount, Int.natCast_emod, hdist, Int.add_emod_right]

theorem ringSpace_cast (hhead : r.head < cap) : (ringSpace cap r : Int) = ((r.tail : Int) - r.head - 1) % cap := by
  have hdist : ((r.tail + cap - r.head - 1 : Nat) : Int) = (r.tail - r.head - 1) + cap := by omega
  rw [ringSpace, Int.natCast_emod, hdist, Int.add_emod_right]

/-! ## The closed forms -/

theorem ringCount_of_tail_le_head (hle : r.tail ≤ r.head) (hhead : r.head < cap) : ringCount cap r = r.head - r.tail := by
  have hdist : r.head + cap - r.tail = (r.head - r.tail) + cap := by omega
  rw [ringCount, hdist, Nat.add_mod_right, Nat.mod_eq_of_lt (by omega)]

theorem ringCount_of_head_lt_tail (hlt : r.head < r.tail) (htail : r.tail < cap) :
    ringCount cap r = r.head + cap - r.tail :=
  Nat.mod_eq_of_lt (by omega)

theorem ringSpace_of_tail_le_head (hle : r.tail ≤ r.head) (hhead : r.head < cap) :
    ringSpace cap r = r.tail + cap - r.head - 1 :=
  Nat.mod_eq_of_lt (by omega)

theorem ringSpace_of_head_lt_tail (hlt : r.head < r.tail) (htail : r.tail < cap) :
    ringSpace cap r = r.tail - r.head - 1 := by
  have hdist : r.tail + cap - r.head - 1 = (r.tail - r.head - 1) + cap := by omega
  rw [ringSpace, hdist, Nat.add_mod_right, Nat.mod_eq_of_lt (by omega)]

/-- The index after `head` is the next number, or 0 after the last slot. -/
theorem nextIndex_eq_ite {i : Nat} (hi : i < cap) : nextIndex cap i = if i + 1 = cap then 0 else i + 1 := by
  split
  next hlast => rw [nextIndex, hlast, Nat.mod_self]
  next hlast => exact Nat.mod_eq_of_lt (by omega)

/-! ## How the quantities agree -/

/-- The one slot beside the held bytes and the space is the one at `head`, never occupied. -/
theorem ringSpace_add_ringCount (hhead : r.head < cap) (htail : r.tail < cap) :
    ringSpace cap r + ringCount cap r + 1 = cap := by
  rcases Nat.lt_or_ge r.head r.tail with hlt | hle
  · rw [ringSpace_of_head_lt_tail hlt htail, ringCount_of_head_lt_tail hlt htail]
    omega
  · rw [ringSpace_of_tail_le_head hle hhead, ringCount_of_tail_le_head hle hhead]
    omega

theorem ringCount_eq_zero_iff (hhead : r.head < cap) (htail : r.tail < cap) :
    ringCount cap r = 0 ↔ r.head = r.tail := by
  rcases Nat.lt_or_ge r.head r.tail with hlt | hle
  · rw [ringCount_of_head_lt_tail hlt htail]
    omega
  · rw [ringCount_of_tail_le_head hle hhead]
    omega

theorem ringSpace_eq_zero_iff (hhead : r.head < cap) (htail : r.tail < cap) :
    ringSpace cap r = 0 ↔ nextIndex cap r.head = r.tail := by
  rw [nextIndex_eq_ite hhead]
  rcases Nat.lt_or_ge r.head r.tail with hlt | hle
  · rw [ringSpace_of_head_lt_tail hlt htail]
    split <;> omega
  · rw [ringSpace_of_tail_le_head hle hhead]
    split <;> omega

theorem ringEmpty_iff : ringEmpty r = true ↔ r.head = r.tail := beq_iff_eq

theorem ringFull_iff : ringFull cap r = true ↔ nextIndex cap r.head = r.tail := beq_iff_eq

end

/-- Settles O13: count and space are closed forms that add up to `cap - 1`, and the two index comparisons are the
zeros of these forms. -/
theorem spaceComplementsCount : Obligations.SpaceComplementsCount := by
  intro cap r _ hhead htail
  have hsum := ringSpace_add_ringCount hhead htail
  exact ⟨ringCount_cast htail, by omega, by omega, ringSpace_cast hhead, ringEmpty_iff,
    ringEmpty_iff.trans (ringCount_eq_zero_iff hhead htail).symm, ringFull_iff,
    ringFull_iff.trans (ringSpace_eq_zero_iff hhead htail).symm⟩

end Sys2Proof.Machine
end

section
/-! A ring as a queue (20_memory.md R92): a push writes past the newest held byte, a pop takes the oldest, so a ring
whose occupied slots are all written is a list of bytes; a run of pushes and pops appends to it and drops from it. -/

namespace Sys2Proof.Machine

/-! ## What a push and a pop do to the contents of a ring -/

section
variable {cap : Nat} {r : Ring}

/-- The `k`-th slot after `tail`, with at most one wrap. -/
theorem slotIndex_eq_ite {tail k : Nat} (htail : tail < cap) (hk : k < cap) :
    (tail + k) % cap = if tail + k < cap then tail + k else tail + k - cap := by
  split
  next hlt => exact Nat.mod_eq_of_lt hlt
  next hge => rw [Nat.mod_eq_sub_mod (by omega), Nat.mod_eq_of_lt (by omega)]

/-- Among the slots counted from `tail`, `head` is the one after the held bytes and no other. -/
theorem slotIndex_eq_head_iff (hhead : r.head < cap) (htail : r.tail < cap) {k : Nat} (hk : k < cap) :
    (r.tail + k) % cap = r.head ↔ k = ringCount cap r := by
  rw [slotIndex_eq_ite htail hk]
  rcases Nat.lt_or_ge r.head r.tail with hlt | hle
  · rw [ringCount_of_head_lt_tail hlt htail]
    split <;> omega
  · rw [ringCount_of_tail_le_head hle hhead]
    split <;> omega

theorem nextIndex_lt {i : Nat} (hi : i < cap) : nextIndex cap i < cap := Nat.mod_lt _ (by omega)

theorem ringFull_iff_ringCount (hhead : r.head < cap) (htail : r.tail < cap) :
    ringFull cap r = true ↔ ringCount cap r = cap - 1 := by
  have hsum := ringSpace_add_ringCount hhead htail
  rw [ringFull_iff, ← ringSpace_eq_zero_iff hhead htail]
  omega

theorem length_ringContents : (ringContents cap r).length = ringCount cap r := by simp [ringContents]

/-- Ring `r` after a byte was stored at `head` (40_ring_engine.md R151). -/
def Ring.pushed (cap : Nat) (b : Byte) (r : Ring) : Ring :=
  { head := nextIndex cap r.head, tail := r.tail, data := memInsert r.head b r.data }

/-- Ring `r` after the slot at `tail` was released (40_ring_engine.md R152). -/
def Ring.popped (cap : Nat) (r : Ring) : Ring := { r with tail := nextIndex cap r.tail }

theorem ringCount_pushed (b : Byte) (hhead : r.head < cap) (htail : r.tail < cap) (hroom : ringFull cap r = false) :
    ringCount cap (r.pushed cap b) = ringCount cap r + 1 := by
  have hsum := ringSpace_add_ringCount hhead htail
  have hnotFull : ringCount cap r ≠ cap - 1 := by
    rw [Ne, ← ringFull_iff_ringCount hhead htail, hroom]
    exact Bool.false_ne_true
  have hslot : (r.tail + ringCount cap r) % cap = r.head := (slotIndex_eq_head_iff hhead htail (by omega)).2 rfl
  refine ((slotIndex_eq_head_iff (r := r.pushed cap b) (nextIndex_lt hhead) htail (by omega)).1 ?_).symm
  calc (r.tail + (ringCount cap r + 1)) % cap
      = ((r.tail + ringCount cap r) % cap + 1) % cap := by rw [Nat.mod_add_mod, Nat.add_assoc]
    _ = nextIndex cap r.head := by rw [hslot, nextIndex]

theorem ringCount_popped (hhead : r.head < cap) (htail : r.tail < cap) (hheld : ringEmpty r = false) :
    ringCount cap r = ringCount cap (r.popped cap) + 1 := by
  have hsum := ringSpace_add_ringCount hhead htail
  have hpos : ringCount cap r ≠ 0 := by
    rw [Ne, ringCount_eq_zero_iff hhead htail, ← ringEmpty_iff, hheld]
    exact Bool.false_ne_true
  have hslot : (r.tail + ringCount cap r) % cap = r.head := (slotIndex_eq_head_iff hhead htail (by omega)).2 rfl
  have hcount : ringCount cap r - 1 = ringCount cap (r.popped cap) := by
    refine (slotIndex_eq_head_iff (r := r.popped cap) hhead (nextIndex_lt htail) (by omega)).1 ?_
    calc (nextIndex cap r.tail + (ringCount cap r - 1)) % cap
        = (r.tail + ringCount cap r) % cap := by rw [nextIndex, Nat.mod_add_mod]; congr 1; omega
      _ = r.head := hslot
  omega

/-- A push with room appends its byte: `head` is none of the occupied slots, so they keep their bytes. -/
theorem ringContents_pushed (b : Byte) (hhead : r.head < cap) (htail : r.tail < cap) (hroom : ringFull cap r = false) :
    ringContents cap (r.pushed cap b) = ringContents cap r ++ [some b] := by
  have hsum := ringSpace_add_ringCount hhead htail
  rw [ringContents, ringCount_pushed b hhead htail hroom, List.range_succ, List.map_append]
  congr 1
  · refine List.map_congr_left fun k hk => ?_
    have hk : k < ringCount cap r := List.mem_range.1 hk
    have hother : (r.tail + k) % cap ≠ r.head := by
      rw [Ne, slotIndex_eq_head_iff hhead htail (by omega)]
      omega
    exact (memFind_memInsert ..).trans (if_neg hother)
  · have hslot : (r.tail + ringCount cap r) % cap = r.head := (slotIndex_eq_head_iff hhead htail (by omega)).2 rfl
    exact congrArg (fun x => [x]) ((memFind_memInsert ..).trans (if_pos hslot))

/-- The oldest entry of a ring that holds a byte is its slot at `tail`, and releasing that slot leaves the others. -/
theorem ringContents_eq_cons_popped (hhead : r.head < cap) (htail : r.tail < cap) (hheld : ringEmpty r = false) :
    ringContents cap r = memFind r.tail r.data :: ringContents cap (r.popped cap) := by
  have hshift : ∀ k, (r.tail + (k + 1)) % cap = (nextIndex cap r.tail + k) % cap := fun k => by
    rw [nextIndex, Nat.mod_add_mod, Nat.add_assoc, Nat.add_comm 1 k]
  rw [ringContents, ringCount_popped hhead htail hheld, List.range_succ_eq_map]
  simp [ringContents, Ring.popped, Function.comp_def, hshift, Nat.mod_eq_of_lt htail]

end

/-! ## The primitives on either ring -/

theorem ringPush_room {r : RingId} {b : Byte} {s : State} (h : ringFull (s.cap r) (s.ring r) = false) :
    ringPush r b s = (true, s.setRing r ((s.ring r).pushed (s.cap r) b)) := by
  cases r with
  | tx => exact ringPush_room_tx h
  | rx => exact ringPush_room_rx h

theorem ringPop_listed {r : RingId} {b : Byte} {s : State} (h : ringEmpty (s.ring r) = false)
    (hb : memFind (s.ring r).tail (s.ring r).data = some b) :
    ringPop r s = (some b, s.setRing r ((s.ring r).popped (s.cap r))) := by
  have hread : slotRead r (s.ring r).tail s = (b, s) := by rw [slotRead, hb]
  simp [ringPop, h, hread, setTail, Ring.popped]

theorem ringPush_fails_iff {r : RingId} {b : Byte} {s : State} :
    (ringPush r b s).1 = false ↔ ringFull (s.cap r) (s.ring r) = true := by
  cases h : ringFull (s.cap r) (s.ring r) with
  | true => simp [ringPush_full h]
  | false => simp [ringPush_room h]

/-! ## The queue invariant -/

/-- Ring `r` is in bounds and its occupied slots, all written, hold the bytes `held`, oldest first. -/
structure HoldsQueue (r : RingId) (held : List Byte) (s : State) : Prop where
  head_lt : (s.ring r).head < s.cap r
  tail_lt : (s.ring r).tail < s.cap r
  contents : ringContents (s.cap r) (s.ring r) = held.map some

theorem holdsQueue_setRing {r : RingId} {held : List Byte} {s : State} {x : Ring} (hhead : x.head < s.cap r)
    (htail : x.tail < s.cap r) (hcontents : ringContents (s.cap r) x = held.map some) :
    HoldsQueue r held (s.setRing r x) := by
  constructor <;> simpa only [ring_setRing_same, cap_setRing]

/-- An empty ring in bounds holds no bytes. -/
theorem holdsQueue_nil {r : RingId} {s : State} (hbounds : ringsInBounds s = true)
    (hempty : ringEmpty (s.ring r) = true) : HoldsQueue r [] s := by
  have hr : ringInBounds (s.cap r) (s.ring r) = true := by
    obtain ⟨htx, hrx⟩ := Bool.and_eq_true_iff.1 hbounds
    cases r with
    | tx => exact htx
    | rx => exact hrx
  simp only [ringInBounds, Bool.and_eq_true, decide_eq_true_eq] at hr
  obtain ⟨⟨hhead, htail⟩, -⟩ := hr
  have hcount := (ringCount_eq_zero_iff hhead htail).2 (ringEmpty_iff.1 hempty)
  exact ⟨hhead, htail, List.length_eq_zero_iff.1 (length_ringContents.trans hcount)⟩

/-- A push adds its byte as the newest one, if it accepts it. -/
theorem holdsQueue_push {r : RingId} {held : List Byte} {s : State} (b : Byte) (h : HoldsQueue r held s) :
    HoldsQueue r (if (ringPush r b s).1 then held ++ [b] else held) (ringPush r b s).2 := by
  obtain ⟨hhead, htail, hcontents⟩ := h
  cases hfull : ringFull (s.cap r) (s.ring r) with
  | true =>
    rw [ringPush_full hfull]
    exact ⟨hhead, htail, hcontents⟩
  | false =>
    rw [ringPush_room hfull]
    refine holdsQueue_setRing (nextIndex_lt hhead) htail ?_
    rw [ringContents_pushed b hhead htail hfull, hcontents]
    simp

/-- A pop returns the oldest byte held, if there is one, and the ring holds the rest. -/
theorem holdsQueue_pop {r : RingId} {held : List Byte} {s : State} (h : HoldsQueue r held s) :
    ∃ rest, held = (ringPop r s).1.toList ++ rest ∧ HoldsQueue r rest (ringPop r s).2 := by
  cases hempty : ringEmpty (s.ring r) with
  | true =>
    rw [ringPop_empty hempty]
    exact ⟨held, rfl, h⟩
  | false =>
    obtain ⟨hhead, htail, hcontents⟩ := h
    rw [ringContents_eq_cons_popped hhead htail hempty] at hcontents
    obtain ⟨b, rest, rfl, hb, hrest⟩ := List.map_eq_cons_iff.1 hcontents.symm
    rw [ringPop_listed hempty hb.symm]
    exact ⟨rest, rfl, holdsQueue_setRing hhead (nextIndex_lt htail) hrest.symm⟩

/-- Along a run the bytes held at first and then the accepted ones are the bytes popped and then those still held. -/
theorem runQueue_holdsQueue {r : RingId} (ops : List (Option Byte)) {held : List Byte} {s : State}
    (h : HoldsQueue r held s) :
    ∃ rest, held ++ (runQueue r ops s).1 = (runQueue r ops s).2.1 ++ rest ∧
      HoldsQueue r rest (runQueue r ops s).2.2 := by
  induction ops generalizing held s with
  | nil => exact ⟨held, List.append_nil held, h⟩
  | cons op ops ih =>
    cases op with
    | some b =>
      obtain ⟨rest, hbytes, hrest⟩ := ih (holdsQueue_push b h)
      refine ⟨rest, ?_, hrest⟩
      rw [runQueue, ← hbytes]
      split <;> simp
    | none =>
      obtain ⟨rest', rfl, hrest'⟩ := holdsQueue_pop h
      obtain ⟨rest, hbytes, hrest⟩ := ih hrest'
      refine ⟨rest, ?_, hrest⟩
      rw [runQueue, List.append_assoc, hbytes, List.append_assoc]

/-- Settles O20: a ring that starts empty holds no bytes, so the accepted bytes of a run are the popped ones and then
those still held. -/
theorem queueIsFirstInFirstOut : Obligations.QueueIsFirstInFirstOut := by
  intro r ops s _ hbounds hempty
  obtain ⟨held, hbytes, hhead, htail, hcontents⟩ := runQueue_holdsQueue ops (holdsQueue_nil hbounds hempty)
  rw [List.nil_append] at hbytes
  refine ⟨?_, ⟨held, hbytes.symm⟩, fun b => ⟨?_, fun hfails => ?_⟩⟩
  · rw [hcontents, hbytes, List.map_append]
  · rw [ringPush_fails_iff, ringFull_iff_ringCount hhead htail, length_ringContents]
  · rw [ringPush_full (ringPush_fails_iff.1 hfails)]

end Sys2Proof.Machine
end

section
/-! The ring engine's transactions on either ring (40_ring_engine.md R153 to R176): a push the task side may make stores
its byte or answers false, a query only answers, and a control write reaches its one register. -/

namespace Sys2Proof.Machine

/-! ## A push the task side may make -/

section
variable {r : RingId} {b : Byte} {w : Word} {s : State}

theorem ringFull_eq_false_iff {cap : Nat} {x : Ring} : ringFull cap x = false ↔ nextIndex cap x.head ≠ x.tail :=
  beq_eq_false_iff_ne

/-- The head of TX is the task side's own (40_ring_engine.md R171), masked or not. -/
theorem breaksOwnership_head_tx (s : State) : breaksOwnership (RingId.tx == .rx) .tx s = false := rfl

/-- While the source of `r` is masked the task side may write all of `r` (40_ring_engine.md R171). -/
theorem breaksOwnership_masked (isrOwned : Bool) (hmask : s.mask r = true) : breaksOwnership isrOwned r s = false := by
  rw [breaksOwnership, hmask, Bool.not_true, Bool.and_false]

theorem pushTransaction_room (howner : breaksOwnership (r == .rx) r s = false)
    (hroom : nextIndex (s.cap r) (s.ring r).head ≠ (s.ring r).tail) :
    pushTransaction r b w s = .next (returns (.bool true) (s.setRing r ((s.ring r).pushed (s.cap r) b))) := by
  simp [pushTransaction, howner, ringPush_room (ringFull_eq_false_iff.2 hroom)]

theorem pushTransaction_full (howner : breaksOwnership (r == .rx) r s = false)
    (hfull : nextIndex (s.cap r) (s.ring r).head = (s.ring r).tail) :
    pushTransaction r b w s = .next (returns (.bool false) s) := by
  simp [pushTransaction, howner, ringPush_full (ringFull_iff.2 hfull)]

end

theorem exec_pushTx (b : Byte) (s : State) : exec (.pushTx b) s = pushTransaction .tx b (encode (.pushTx b)) s := rfl

theorem exec_pushRx (b : Byte) (s : State) : exec (.pushRx b) s = pushTransaction .rx b (encode (.pushRx b)) s := rfl

/-- Settles O10: PUSH TX needs no mask and PUSH RX runs under its own, so each is the push of its ring, and storing at
`head` leaves the bytes of the other slots. -/
theorem pushStoresAndAdvances : Obligations.PushStoresAndAdvances := by
  intro s b
  rw [exec_pushTx, exec_pushRx]
  refine ⟨?txRoom, ?txFull, ?rxRoom, ?rxFull, fun _ _ => memFind_memInsert ..⟩
  case txRoom => exact pushTransaction_room (breaksOwnership_head_tx s)
  case txFull => exact pushTransaction_full (breaksOwnership_head_tx s)
  case rxRoom => exact fun hmask => pushTransaction_room (r := .rx) (breaksOwnership_masked _ hmask)
  case rxFull => exact fun hmask => pushTransaction_full (r := .rx) (breaksOwnership_masked _ hmask)

/-! ## The queries -/

theorem isEmptyTransaction_eq (r : RingId) (s : State) :
    isEmptyTransaction r s = .next { s with ret := some (.bool (decide ((s.ring r).head = (s.ring r).tail))) } := by
  rw [isEmptyTransaction, ringEmpty, beq_eq_decide, returns]

/-- SPACE answers the remainder of R34, which is the integer one for a head in bounds (10_state.md R35). -/
theorem spaceTransaction_answers (r : RingId) (s : State) :
    ∃ n : Nat, spaceTransaction r s = .next { s with ret := some (.count n) } ∧
      ((s.ring r).head < s.cap r → (n : Int) = (((s.ring r).tail : Int) - (s.ring r).head - 1) % s.cap r) :=
  ⟨ringSpace (s.cap r) (s.ring r), rfl, ringSpace_cast⟩

/-- Settles O12: each query returns a value read from its ring and reads no mask; the index reads are their definitions,
the other two go by the laws above. -/
theorem ringQueriesOnlyAnswer : Obligations.RingQueriesOnlyAnswer :=
  ⟨by decide, fun s => ⟨isEmptyTransaction_eq .tx s, isEmptyTransaction_eq .rx s, rfl, rfl, rfl, rfl,
    spaceTransaction_answers .tx s, spaceTransaction_answers .rx s⟩⟩

/-! ## The control writes -/

/-- Settles O26: the words are computed, and each transaction is by definition the write of its one register. -/
theorem modeAndMaskWrites : Obligations.ModeAndMaskWrites :=
  ⟨by decide, fun _ => ⟨rfl, rfl, rfl, rfl, rfl, rfl⟩⟩

end Sys2Proof.Machine
end

section
/-! The matrix scanner's samples and passes (41_matrix_scanner.md R200 to R216): the row byte bit by bit, SCAN.COL as a
comparison of two row bytes, SCAN.END as a count of idle passes that ends in `arm()`. -/

namespace Sys2Proof.Machine

/-! ## The row byte (R201) -/

/-- A bit of a union of bytes is set when some byte of the union sets it. -/
theorem getLsbD_foldl_or {w : Nat} (f : Nat → BitVec w) (i : Nat) (l : List Nat) (acc : BitVec w) :
    (l.foldl (fun acc k => acc ||| f k) acc).getLsbD i = true ↔
      acc.getLsbD i = true ∨ ∃ k ∈ l, (f k).getLsbD i = true := by
  induction l generalizing acc with
  | nil => simp
  | cons k l ih => simp [ih, or_assoc]

/-- The sample is active low: a bit is 0 when its row is pulled active. -/
theorem getLsbD_sampleRows (s : State) (r : Fin 8) :
    (sampleRows s).getLsbD r.val = !(activeRows s.cfg s.scan.drive s.keys).getLsbD r.val := by
  simp [sampleRows]

theorem activeRows_col {cfg : Params} {c : Nat} (hc : c < cfg.ncol) (keys : Mem) :
    activeRows cfg (.col c) keys = memRead c keys :=
  if_pos hc

theorem getLsbD_activeRows_assertAll (cfg : Params) (keys : Mem) (i : Nat) :
    (activeRows cfg .assertAll keys).getLsbD i = true ↔ ∃ c, c < cfg.ncol ∧ (memRead c keys).getLsbD i = true := by
  simp [activeRows, closedKeys, getLsbD_foldl_or]

/-- Settles O47: a sampled bit is the complement of its row's line, and each drive value says which columns pull it. -/
theorem sampledRowsAreTheClosedSwitches : Obligations.SampledRowsAreTheClosedSwitches := by
  intro s r
  rw [getLsbD_sampleRows, Bool.not_eq_false']
  refine ⟨fun c hdrive hc => ?col, fun hdrive => ?assertAll, fun hdrive => ?tristateAll⟩
  case col => rw [hdrive, activeRows_col hc]
  case assertAll => rw [hdrive, getLsbD_activeRows_assertAll]
  case tristateAll => simp [hdrive, activeRows]

/-! ## One column (R207 to R209) -/

/-- The translator does not read the column drive (R200). -/
theorem translate_driveColumn (row : Fin 8) (col : Nat) (p : Bool) (x : ColDrive) (s : State) :
    translate row col p (driveColumn x s) = ((translate row col p s).1, driveColumn x (translate row col p s).2) := by
  unfold translate
  rw [driveColumn_cfg, driveColumn_kbc]
  cases makeCode s.cfg (effectiveSet s.kbc) row col with
  | none => rfl
  | some m =>
    cases s.kbc.enabled with
    | false => rfl
    | true => simp [emitAll_eq, driveColumn]

/-- Reporting edges does not read the column drive either, so it commutes with setting it. -/
theorem reportAll_driveColumn (col : Nat) (es : List (Fin 8 × Bool)) (x : ColDrive) (s : State) :
    reportAll col es (driveColumn x s) = driveColumn x (reportAll col es s) := by
  induction es generalizing s with
  | nil => rfl
  | cons e es ih =>
    have hreport : report e.1 col e.2 (driveColumn x s) = driveColumn x (report e.1 col e.2 s) := by
      rw [report, translate_driveColumn]
      rfl
    rw [reportAll, hreport, ih, reportAll]

/-- The row byte of a column is its closed switches under the valid mask: sampling and R207 each invert it. -/
theorem columnState_eq {s : State} {c : Nat} (hc : c < s.cfg.ncol) :
    columnState c s = memRead c s.keys &&& s.cfg.validMask.getD c 0 := by
  rw [columnState, sampleRows, BitVec.not_not]
  exact congrArg (· &&& validMaskAt s.cfg c) (activeRows_col hc s.keys)

/-- The rows whose bits differ between two row bytes, ascending. -/
def changedRows (old new : Byte) : List (Fin 8) :=
  (List.finRange 8).filter fun r => new.getLsbD r.val != old.getLsbD r.val

theorem edgesOf_rowOrder (old new : Byte) :
    edgesOf old new rowOrder = (changedRows old new).map fun r => (r, new.getLsbD r.val) := by
  have horder : rowOrder = List.finRange 8 := by decide
  simp only [edgesOf, changedRows, horder, BitVec.getLsbD_xor]

/-- The reports of a column append one record per edge and the bytes of each to the two logs, and write nothing else. -/
theorem reportAll_state (col : Nat) (es : List (Fin 8 × Bool)) (s : State) :
    reportAll col es s = { s with out := { s.out with
      host := s.out.host ++ es.flatMap fun e =>
        (translate e.1 col e.2 { s with out := { s.out with host := [] } }).2.out.host
      edges := s.out.edges ++ es.map fun e =>
        { row := e.1, col := col, pressed := e.2, status := (translate e.1 col e.2 s).1 } } } := by
  rw [← reportAll_host]
  obtain ⟨host, hreports⟩ := reportAll_eq col es s
  rw [hreports]

/-- SCAN.COL reports the rows that differ between the stored byte of its column and the new one, stores the new one and
moves on. -/
theorem scanCol_eq {s : State} {c : Nat} {st : Byte} (hc : s.scan.col = c) (hst : columnState c s = st) :
    scanCol s = { s with
      scan := { s.scan with prev := memWrite c st s.scan.prev, col := c + 1, drive := .col c }
      out := { s.out with
        host := s.out.host ++ (changedRows (memRead c s.scan.prev) st).flatMap fun r =>
          (translate r c (st.getLsbD r.val) { s with out := { s.out with host := [] } }).2.out.host
        edges := s.out.edges ++ (changedRows (memRead c s.scan.prev) st).map fun r =>
          { row := r, col := c, pressed := st.getLsbD r.val, status := (translate r c (st.getLsbD r.val) s).1 } } } := by
  subst hc hst
  simp only [scanCol, edgesOf_rowOrder, reportAll_driveColumn]
  simp only [reportAll_state, List.map_map, List.flatMap_map]
  rfl

theorem agentStepOf_scan_col {s : State} (hpolling : s.scan.state = .polling) (hcol : s.scan.col < s.cfg.ncol) :
    agentStepOf .scan s = some .scanCol := by
  simp [agentStepOf, hpolling, hcol]

/-- Settles O49: the step is `scanCol_eq` for the masked closed switches of the column, read field by field; the new
`prev` is a write, so the other columns read as before. -/
theorem scanColumnReportsExactlyTheEdges : Obligations.ScanColumnReportsExactlyTheEdges := by
  intro s hpolling hcol
  refine ⟨agentStepOf_scan_col hpolling hcol, ?_⟩
  intro c st rows t
  have hstep := scanCol_eq (c := c) (st := st) rfl (columnState_eq hcol)
  refine ⟨?edges, ?host, ?prev, ?frame⟩
  case edges => exact congrArg (·.out.edges) hstep
  case host => exact congrArg (·.out.host) hstep
  case prev =>
    have hprev : t.scan.prev = memWrite c st s.scan.prev := congrArg (·.scan.prev) hstep
    exact fun j => hprev ▸ memRead_memWrite c j st s.scan.prev
  case frame =>
    change t = _ at hstep
    rw [hstep]

/-! ## The end of a pass (R210, R211, R215) -/

theorem noKeyHeld_iff {s : State} : noKeyHeld s = true ↔ ∀ c, c < s.cfg.ncol → memRead c s.scan.prev = 0 := by
  simp [noKeyHeld]

/-- The idle passes counted once this one ends. -/
def idlePasses (s : State) : Nat := if noKeyHeld s then s.scan.idle + 1 else 0

theorem idlePasses_of_none_held {s : State} (h : ∀ c, c < s.cfg.ncol → memRead c s.scan.prev = 0) :
    idlePasses s = s.scan.idle + 1 :=
  if_pos (noKeyHeld_iff.2 h)

theorem idlePasses_of_held {s : State} (h : ∃ c, c < s.cfg.ncol ∧ memRead c s.scan.prev ≠ 0) : idlePasses s = 0 := by
  obtain ⟨c, hc, hheld⟩ := h
  exact if_neg fun hnone => hheld (noKeyHeld_iff.1 hnone c hc)

theorem scanEnd_below_limit {s : State} (h : idlePasses s < s.cfg.pollIdleLimit) :
    scanEnd s = { s with scan := { s.scan with drive := .tristateAll, idle := idlePasses s, col := 0 } } :=
  if_neg (Nat.not_le.2 h)

/-- At the limit the pass is not restarted but armed, from the state with the columns already tri-stated (R210). -/
theorem scanEnd_at_limit {s : State} (h : s.cfg.pollIdleLimit ≤ idlePasses s) :
    scanEnd s = arm { s with scan := { s.scan with drive := .tristateAll, idle := idlePasses s } } :=
  if_pos h

/-- The re-check after arming asks for its option and for a row active at arming (R215). -/
theorem repollAfterArm_eq (s : State) :
    repollAfterArm s =
      if s.cfg.repollAfterArm = true ∧ s.scan.rowsAtArm ≠ 0xFF then
        { s with scan := { s.scan with irqEn := false, state := .polling, drive := .tristateAll } }
      else s := by
  simp only [repollAfterArm, Bool.and_eq_true, bne_iff_ne]

theorem agentStepOf_scan_end {s : State} (hpolling : s.scan.state = .polling) (hcol : s.scan.col = s.cfg.ncol) :
    agentStepOf .scan s = some .scanEnd := by
  simp [agentStepOf, hpolling, hcol]

/-- Settles O50: the count the statement allows is `idlePasses`, and at the limit what is left of `arm()` is its
re-check. -/
theorem scanEndCountsOrArms : Obligations.ScanEndCountsOrArms := by
  intro s hpolling hcol
  refine ⟨agentStepOf_scan_end hpolling hcol, fun n hcount => ?_⟩
  have hn : n = idlePasses s := by
    obtain ⟨hnone, rfl⟩ | ⟨hheld, rfl⟩ := hcount
    · exact (idlePasses_of_none_held hnone).symm
    · exact (idlePasses_of_held hheld).symm
  subst hn
  exact ⟨scanEnd_below_limit, fun hlimit => (scanEnd_at_limit hlimit).trans (repollAfterArm_eq _)⟩

end Sys2Proof.Machine
end

section
/-! The data port (42_i8042_data_port.md): every operation ends in one response, so each statement about one is what
`respondData` makes of it; a response that RESEND replays leaves the block ready to replay it again. -/

namespace Sys2Proof.Machine

/-! ## A host byte answered (R250, R251) -/

section
variable (base : State) (d : DState)

/-- A cacheable response fits the buffer: the side conditions close for every response written out as a list. -/
theorem answered_respondData_cached (resp : List Byte) (hpos : 0 < resp.length := by simp)
    (hle : resp.length ≤ 3 := by simp) :
    answered base (respondData resp true (setDState d base)) resp true d := by
  have hkbc : (respondData resp true (setDState d base)).kbc = cacheResponse resp (setDState d base).kbc := by
    rw [respondData_eq, if_pos rfl]
  refine ⟨?frame, fun _ => ⟨?replayed, ?length⟩, nofun⟩
  case frame =>
    rw [hkbc, respondData_eq, if_pos rfl, cacheResponse_eq]
    rfl
  case replayed => rw [hkbc, cachedResponse_cacheResponse _ (List.length_pos_iff.1 hpos) hle]
  case length => rw [hkbc, cacheResponse, if_pos hpos]

theorem answered_respondData_uncached (resp : List Byte) :
    answered base (respondData resp false (setDState d base)) resp false d := by
  rw [respondData_eq]
  exact ⟨rfl, nofun, fun _ => ⟨rfl, rfl⟩⟩

end

/-! ## Commands that write the cache and `dstate` alone (R252 to R256, R260, R263) -/

/-- Settles O33: each command responds right after its write of `dstate`. -/
theorem acknowledgedCommands : Obligations.AcknowledgedCommands := by
  refine ⟨⟨rfl, rfl, rfl, rfl, rfl, rfl, fun _ => rfl⟩, fun s =>
    ⟨⟨_, rfl, ?setleds⟩, ⟨_, rfl, ?echo⟩, ⟨_, rfl, ?scanset⟩, ⟨_, rfl, ?getid⟩, ⟨_, rfl, ?setrep⟩, ⟨_, rfl, ?reset⟩,
      fun _ => ⟨_, rfl, ?ledArg⟩⟩⟩
  case setleds => exact answered_respondData_cached s .awaitingLedByte _
  case echo => exact answered_respondData_cached s .normal _
  case scanset => exact answered_respondData_cached s .awaitingScancodeSet _
  case getid => exact answered_respondData_cached s .normal _
  case setrep => exact answered_respondData_cached s .normal _
  case reset => exact answered_respondData_cached s .normal _
  case ledArg => exact answered_respondData_cached s .normal _

/-! ## The keyboard enable (R257, R258, R267) -/

theorem setKbEnabled_setDState (v : Bool) (d : DState) (s : State) :
    setKbEnabled v (setDState d s) = setDState d (setKbEnabled v s) := by
  rw [setKbEnabled_eq, setKbEnabled_eq]
  rfl

theorem exec_enable (s : State) :
    exec .enable s = .next (respondData [s.cfg.ack] true (setDState .normal (setKbEnabled true s))) := by
  rw [← setKbEnabled_setDState]
  rfl

theorem exec_disable (s : State) :
    exec .disable s = .next (respondData [s.cfg.ack] true (setDState .normal (setKbEnabled false s))) := by
  rw [← setKbEnabled_setDState]
  rfl

/-- `set_kb_enabled(0)` signals where the keyboard was enabled. -/
theorem setKbEnabled_false (s : State) :
    setKbEnabled false s = { s with
      kbc := { s.kbc with enabled := false }
      out := { s.out with ctl := s.out.ctl ++ if s.kbc.enabled then [.kbEnable false] else [] } } := by
  rw [setKbEnabled_eq]
  cases s.kbc.enabled <;> rfl

/-- Settles O34: the state answered from is the one `set_kb_enabled` leaves. -/
theorem enableAndDisableSignalOnChange : Obligations.EnableAndDisableSignalOnChange := by
  refine ⟨⟨rfl, rfl⟩, fun s => ⟨⟨_, exec_enable s, ?enable⟩, ⟨_, exec_disable s, ?disable⟩⟩⟩
  case enable =>
    rw [setKbEnabled_eq]
    exact answered_respondData_cached _ .normal _
  case disable =>
    rw [setKbEnabled_false]
    exact answered_respondData_cached _ .normal _

/-! ## RESEND (R259, R269) -/

/-- Settles O35: the response is the model's `resendResponse`, never cached. -/
theorem resendReplaysTheCache : Obligations.ResendReplaysTheCache :=
  ⟨rfl, fun s => ⟨_, rfl, answered_respondData_uncached s .normal (resendResponse s)⟩⟩

/-- In `s` a DATA 0xFE is RESEND, answers `resp`, and finds `dstate` and the returned value as it leaves them. -/
structure ReadyToReplay (resp : List Byte) (s : State) : Prop where
  dstate : s.kbc.dstate = .normal
  ret : s.ret = some .unit
  response : resendResponse s = resp

theorem readyToReplay_of_answered {base s : State} {resp : List Byte} (h : answered base s resp true .normal)
    (hne : resp ≠ []) : ReadyToReplay resp s := by
  obtain ⟨hframe, hcached, -⟩ := h
  obtain ⟨hresp, hlen⟩ := hcached rfl
  refine ⟨congrArg (·.kbc.dstate) hframe, congrArg (·.ret) hframe, ?_⟩
  rw [resendResponse, if_pos (hlen ▸ List.length_pos_iff.2 hne), hresp]

/-- The state after `resp` was replayed `n` times. -/
def replayed (resp : List Byte) (n : Nat) (s : State) : State :=
  { s with out := { s.out with host := s.out.host ++ (List.replicate n (resp.map fun b => (Channel.kbd, b))).flatten } }

theorem replayed_zero (resp : List Byte) (s : State) : replayed resp 0 s = s := by simp [replayed]

theorem emitAll_replayed (resp : List Byte) (n : Nat) (s : State) :
    emitAll resp (replayed resp n s) = replayed resp (n + 1) s := by
  simp [emitAll_eq, replayed, List.replicate_succ', List.append_assoc]

/-- Replaying reads the cache and writes `host_out`, so it stays possible. -/
theorem ReadyToReplay.after_replayed {resp : List Byte} {s : State} (h : ReadyToReplay resp s) (n : Nat) :
    ReadyToReplay resp (replayed resp n s) :=
  ⟨h.dstate, h.ret, h.response⟩

/-- DATA 0xFE writes `dstate` and the returned value as they were: it emits the response and no more. -/
theorem exec_data_resend {resp : List Byte} {s : State} (h : ReadyToReplay resp s) :
    exec (.data 0xFE) s = .next (emitAll resp s) := by
  obtain ⟨hdstate, hret, hresp⟩ := h
  have hresend : exec (.data 0xFE) s = exec .resend s := by
    change dataOperation (decodeData s.kbc.dstate 0xFE) s = _
    rw [hdstate]
    rfl
  have hset : setDState .normal s = s := by
    rw [setDState, ← hdstate]
  have hreturns : returns .unit (emitAll resp s) = emitAll resp s := by
    rw [emitAll_eq, returns, ← hret]
  calc exec (.data 0xFE) s
      = .next (respondData (resendResponse s) false (setDState .normal s)) := hresend
    _ = .next (returns .unit (emitAll resp s)) := by rw [hset, hresp]; rfl
    _ = .next (emitAll resp s) := by rw [hreturns]

/-- Any function that goes on from a next state by DATA 0xFE, iterated, replays the response that often. -/
theorem iterate_resend {resp : List Byte} {s : State} (h : ReadyToReplay resp s) {f : Outcome → Outcome}
    (hf : ∀ t, f (.next t) = exec (.data 0xFE) t) (n : Nat) : f^[n] (.next s) = .next (replayed resp n s) := by
  induction n with
  | zero => rw [Function.iterate_zero_apply, replayed_zero]
  | succ n ih => rw [Function.iterate_succ_apply', ih, hf, exec_data_resend (h.after_replayed n), emitAll_replayed]

/-- Settles O36: a cached response leaves the block ready to replay it, and replaying keeps it so. -/
theorem repeatedResendLaw : Obligations.RepeatedResendLaw :=
  fun _ _ _ hanswered hne n => iterate_resend (readyToReplay_of_answered hanswered hne) (fun _ => rfl) n

/-! ## The scan-code-set argument (R262) -/

theorem codeSetByte_eq_ite (c : CodeSet) : codeSetByte c = if c = .set1 then 0x01 else 0x02 := by cases c <;> rfl

theorem exec_scansetArg_of_two_lt {b : Byte} (h : 2 < b.toNat) (s : State) :
    exec (.scansetArg b) s = .next (respondData [s.cfg.nak] false (setDState .normal s)) := by
  have hne : ∀ k : Byte, k.toNat ≤ 2 → b ≠ k := fun k hk hbk => absurd h (by rw [hbk]; omega)
  change execScansetArg b s = _
  rw [execScansetArg, if_neg (hne 0 (by decide)), if_neg (hne 1 (by decide)), if_neg (hne 2 (by decide))]

/-- Settles O37: the query and the two selections are the first three branches of the argument, and every byte above 2
falls through to the last. -/
theorem scanSetArgument : Obligations.ScanSetArgument := by
  refine ⟨fun _ => rfl, fun s => ⟨⟨_, rfl, ?query⟩, ⟨_, rfl, ?set1⟩, ⟨_, rfl, ?set2⟩,
    fun b hb => ⟨_, exec_scansetArg_of_two_lt hb s, ?other⟩⟩⟩
  case query =>
    rw [codeSetByte_eq_ite]
    exact answered_respondData_cached s .normal _
  case set1 => exact answered_respondData_cached _ .normal _
  case set2 => exact answered_respondData_cached _ .normal _
  case other => exact answered_respondData_uncached s .normal _

/-! ## The silent arguments (R264 to R266) -/

/-- A data-port byte with no response only returns. -/
theorem respondData_nil (s : State) : respondData [] false s = returns .unit s := rfl

/-- Settles O38: with an empty response what is left of each argument is its one write and that of `dstate`. -/
theorem silentArgumentBytes : Obligations.SilentArgumentBytes := by
  refine ⟨fun _ => ⟨rfl, rfl, rfl⟩, fun s b => ⟨⟨_, rfl, ?cmdbyteArg⟩, ?echoMouseArg, ?sendToMouseArg⟩⟩
  case cmdbyteArg => exact answered_respondData_uncached (writeRam s.kbc.ramAddr b s) .normal []
  case echoMouseArg => exact congrArg Host.Outcome.next (respondData_nil _)
  case sendToMouseArg => exact congrArg Host.Outcome.next (respondData_nil _)

/-! ## Bytes that only answer (R261, R301, R306, R311) -/

theorem decodeData_normal_of_isDnakByte {b : Byte} (h : isDnakByte b = true) : decodeData .normal b = .dnak b := by
  simp only [isDnakByte, dataCommandBytes, Bool.not_eq_true', List.contains_eq_mem, decide_eq_false_iff_not,
    List.mem_cons, List.not_mem_nil, not_or] at h
  simp only [decodeData, decodeDataCommand, h, if_false]

theorem decodeCmd_of_isCnakByte {b : Byte} (h : isCnakByte b = true) : decodeCmd b = .cnak b := by
  simp only [isCnakByte, cmdCommandBytes, Bool.and_eq_true, bne_iff_ne, ne_eq, Bool.not_eq_true', List.contains_eq_mem,
    decide_eq_false_iff_not, List.mem_cons, List.not_mem_nil, not_or] at h
  obtain ⟨⟨hrd, hwr⟩, hlisted⟩ := h
  rw [decodeCmd, if_neg (c := b.extractLsb' 5 3 = 1) hrd, if_neg (c := b.extractLsb' 5 3 = 3) hwr]
  simp only [hlisted, if_false]

/-- The row of a RAM byte is its value over 32 (30_encoding.md R123). -/
theorem toNat_ramSelector (b : Byte) : (b.extractLsb' 5 3).toNat = b.toNat / 32 := by
  have hb := b.isLt
  rw [BitVec.extractLsb'_toNat, Nat.shiftRight_eq_div_pow]
  omega

theorem decodeCmd_rdRam {b : Byte} (hlo : 0x20 ≤ b.toNat) (hhi : b.toNat ≤ 0x3F) :
    decodeCmd b = .rdRam (b.extractLsb' 0 5) := by
  have hsel : b.extractLsb' 5 3 = 1 := BitVec.eq_of_toNat_eq ((toNat_ramSelector b).trans (by
    change b.toNat / 32 = 1
    omega))
  rw [decodeCmd, if_pos hsel]

/-- DNAK writes no `dstate`, and no cache either, so it is the response of CNAK. -/
theorem respondData_uncached (resp : List Byte) (s : State) : respondData resp false s = respondCmd resp s := rfl

/-- Settles O41: each of the four is one byte answered by `respondCmd`. -/
theorem answersWithoutEffect : Obligations.AnswersWithoutEffect := by
  refine ⟨⟨rfl, fun _ => decodeData_normal_of_isDnakByte, fun _ => decodeCmd_of_isCnakByte,
    fun _ ⟨hlo, hhi⟩ => decodeCmd_rdRam hlo hhi⟩, fun s b a => ⟨?nak, ?rdRam, ?selfTest⟩⟩
  case nak =>
    intro i hi
    obtain rfl | rfl := List.mem_pair.1 hi
    · exact congrArg Host.Outcome.next ((respondData_uncached _ s).trans (respondCmd_eq [s.cfg.nak] s))
    · exact congrArg Host.Outcome.next (respondCmd_eq [s.cfg.nak] s)
  case rdRam => exact congrArg Host.Outcome.next (respondCmd_eq [ramRead a s.kbc] s)
  case selfTest => exact congrArg Host.Outcome.next (respondCmd_eq [s.cfg.selfTestOk] s)

end Sys2Proof.Machine
end

section
/-! The command port (43_i8042_command_port.md): `write_ram` as one equation per kind of byte, the four bit commands
through it, and the argument states a command leaves for the next data byte. -/

namespace Sys2Proof.Machine

/-! ## The side effects of byte 0 (R305) -/

/-- The keyboard enable after a write of byte 0: the complement of KBD_DIS where that bit changes (R305). -/
def enabledAfter (old v : Byte) (k : Kbc) : Bool :=
  if cmdKbdDis old = cmdKbdDis v then k.enabled else !cmdKbdDis v

/-- The events of a write of byte 0, in R305's order. -/
def commandByteEvents (old v : Byte) (k : Kbc) : List CtlEvent :=
  (if cmdEnIrq1 old = false ∧ cmdEnIrq1 v = true then [.kbdIrqEnable true] else []) ++
    (if k.enabled = enabledAfter old v k then [] else [.kbEnable (enabledAfter old v k)]) ++
    (if cmdEnIrq1 old = true ∧ cmdEnIrq1 v = false then [.kbdIrqEnable false] else [])

/-- Each of the three events asks for a change of its bit (R315). -/
theorem commandByteEvents_self (v : Byte) (k : Kbc) : commandByteEvents v v k = [] := by
  simp [commandByteEvents, enabledAfter]

theorem signalIf_eq (c : Bool) (e : CtlEvent) (s : State) :
    signalIf c e s = { s with out := { s.out with ctl := s.out.ctl ++ if c then [e] else [] } } := by
  cases c
  case false => simp [signalIf]
  case true => rfl

theorem setKbEnabled_self (s : State) : setKbEnabled s.kbc.enabled s = s := by simp [setKbEnabled]

/-- Where KBD_DIS stays, the level is set to what it was. -/
theorem setKbEnabled_enabledAfter (old v : Byte) (s : State) :
    (if cmdKbdDis old != cmdKbdDis v then setKbEnabled (!cmdKbdDis v) else id) s =
      setKbEnabled (enabledAfter old v s.kbc) s := by
  by_cases h : cmdKbdDis old = cmdKbdDis v
  case pos => simp [enabledAfter, h, setKbEnabled_self]
  case neg => simp [enabledAfter, h]

theorem commandByteEffects_eq (old v : Byte) (s : State) :
    commandByteEffects old v s = { s with
      kbc := { s.kbc with enabled := enabledAfter old v s.kbc }
      out := { s.out with ctl := s.out.ctl ++ commandByteEvents old v s.kbc } } := by
  simp only [commandByteEffects, setKbEnabled_enabledAfter, signalIf_eq, setKbEnabled_eq, commandByteEvents, Bool.and_eq_true,
    Bool.not_eq_true', List.append_assoc]

/-! ## `write_ram` (R305, R313) -/

theorem writeRam_zero (v : Byte) (s : State) :
    writeRam 0 v s = { s with
      kbc := { s.kbc with ram := memWrite 0 v s.kbc.ram, enabled := enabledAfter (commandByte s.kbc) v s.kbc }
      out := { s.out with ctl := s.out.ctl ++ commandByteEvents (commandByte s.kbc) v s.kbc } } := by
  rw [writeRam, if_pos rfl, commandByteEffects_eq]
  rfl

theorem writeRam_of_ne_zero {a : BitVec 5} (ha : a ≠ 0) (v : Byte) (s : State) :
    writeRam a v s = { s with kbc := { s.kbc with ram := memWrite a.toNat v s.kbc.ram } } :=
  if_neg ha

theorem writeRam_commandByte_out (s : State) : (writeRam 0 (commandByte s.kbc) s).out = s.out := by
  rw [writeRam_zero, commandByteEvents_self, List.append_nil]

/-- Settles O44: the storage is a write, and what is left of byte 0 is `commandByteEffects_eq`. -/
theorem controllerRamWriteLaw : Obligations.ControllerRamWriteLaw := by
  intro s a v
  refine ⟨⟨memWrite a.toNat v s.kbc.ram, ?reads, ?plain, ?commandByte⟩, writeRam_commandByte_out s⟩
  case reads => exact fun j => memRead_memWrite a.toNat j v s.kbc.ram
  case plain => exact fun ha => writeRam_of_ne_zero ha v s
  case commandByte =>
    rintro rfl
    exact writeRam_zero v s

/-! ## The bit commands (R303, R304, R307, R308) -/

/-- A command with no response only returns. -/
theorem respondCmd_nil (s : State) : respondCmd [] s = returns .unit s := rfl

/-- Settles O43: each is one `write_ram` of byte 0 with no response; the masks that clear are the complements. -/
theorem commandByteBitCommands : Obligations.CommandByteBitCommands := by
  have haux : ~~~auxDisMask = 0xDF := by decide
  have hkbd : ~~~kbdDisMask = 0xEF := by decide
  refine ⟨⟨rfl, rfl, rfl, rfl⟩, fun s => ⟨?disAux, ?enaAux, ?disKbd, ?enaKbd⟩⟩
  case disAux => exact congrArg Host.Outcome.next (respondCmd_nil _)
  case enaAux =>
    rw [← haux]
    exact congrArg Host.Outcome.next (respondCmd_nil _)
  case disKbd => exact congrArg Host.Outcome.next (respondCmd_nil _)
  case enaKbd =>
    rw [← hkbd]
    exact congrArg Host.Outcome.next (respondCmd_nil _)

/-! ## The argument states (R302, R309, R310) -/

theorem decodeCmd_wrRam {b : Byte} (hlo : 0x60 ≤ b.toNat) (hhi : b.toNat ≤ 0x7F) :
    decodeCmd b = .wrRam (b.extractLsb' 0 5) := by
  have hsel : b.extractLsb' 5 3 = 3 := BitVec.eq_of_toNat_eq ((toNat_ramSelector b).trans (by
    change b.toNat / 32 = 3
    omega))
  rw [decodeCmd, hsel, if_neg (by decide), if_pos rfl]

/-- Settles O42: each command writes its argument state with no response, and in that state every data byte decodes to
the argument. -/
theorem commandPortArgumentStates : Obligations.CommandPortArgumentStates := by
  refine ⟨⟨fun _ ⟨hlo, hhi⟩ => decodeCmd_wrRam hlo hhi, rfl, rfl, fun _ => ⟨rfl, rfl, rfl⟩⟩,
    fun s a => ⟨?wrRam, ?echoMouse, ?sendToMouse⟩⟩
  case wrRam => exact congrArg Host.Outcome.next (respondCmd_nil _)
  case echoMouse => exact congrArg Host.Outcome.next (respondCmd_nil _)
  case sendToMouse => exact congrArg Host.Outcome.next (respondCmd_nil _)

end Sys2Proof.Machine
end

section
/-! Translation (44_scancode_translate.md): KEY_EVENT through `translate`, and the bytes of a press and of a release in
each set. -/

namespace Sys2Proof.Machine

/-! ## `translate`, an equation per answer (R340, R348) -/

section
variable {row : Fin 8} {col : Nat} {s : State}

theorem translate_of_makeCode_none (hm : makeCode s.cfg (effectiveSet s.kbc) row col = none) (p : Bool) :
    translate row col p s = (.unimplemented, s) := by
  rw [translate, hm]

theorem translate_of_disabled {m : MakeCode} (hm : makeCode s.cfg (effectiveSet s.kbc) row col = some m)
    (he : s.kbc.enabled = false) (p : Bool) : translate row col p s = (.droppedDisabled, s) := by
  rw [translate, hm, he]
  rfl

theorem translate_of_enabled {m : MakeCode} (hm : makeCode s.cfg (effectiveSet s.kbc) row col = some m)
    (he : s.kbc.enabled = true) (p : Bool) :
    translate row col p s = (.ok, emitAll (codeBytes s.cfg.breakOrder m (effectiveSet s.kbc) p) s) := by
  rw [translate, hm, he]
  rfl

end

/-! ## KEY_EVENT (R347) -/

theorem exec_keyEvent_of_lt {s : State} {col : Byte} (hc : col.toNat < s.cfg.ncol) (row : Fin 8) (p : Bool) :
    exec (.keyEvent row col p) s =
      .next (returns (.status (translate row col.toNat p s).1) (translate row col.toNat p s).2) :=
  if_pos (decide_eq_true hc)

/-- Settles O45: inside the matrix KEY_EVENT returns `translate`'s answer, and the statement's three clauses are the
three answers; its set is `effectiveSet` written out (R341). -/
theorem keyEventEmitsItsCode : Obligations.KeyEventEmitsItsCode := by
  intro s row col p hc eff
  have heff : eff = effectiveSet s.kbc := rfl
  rw [heff]
  refine ⟨fun hm => ?unimplemented, fun m hm he => ?dropped, fun m hm he => ?ok⟩
  case unimplemented =>
    rw [exec_keyEvent_of_lt hc, translate_of_makeCode_none hm]
    rfl
  case dropped =>
    rw [exec_keyEvent_of_lt hc, translate_of_disabled hm he]
    rfl
  case ok =>
    rw [exec_keyEvent_of_lt hc, translate_of_enabled hm he, emitAll_eq]
    rfl

/-! ## The bytes of a key event (R343 to R345) -/

/-- Settles O46: every row is a branch of `codeBytes`, a press before any set is asked for. -/
theorem breakCodesBySet : Obligations.BreakCodesBySet :=
  fun _ _ _ _ => ⟨rfl, rfl, rfl, rfl, rfl, rfl, rfl⟩

end Sys2Proof.Machine
end

section
/-! The two encodings (30_encoding.md): a transaction word is its four fields, so decoding goes unit by unit; a host byte
is carried by the DATA or CMD word, so its decoding is that of its port. -/

namespace Sys2Proof.Machine

/-! ## Decoding by fields (R110, R111) -/

/-- The decoder on the fields of a word. -/
def decodeFields (u o : BitVec 4) (a : Field16) (b : Byte) : Except DecodeError Instr := decodeWord (mkWord u o a b)

section
variable (o : BitVec 4) (a : Field16) (b : Byte)

theorem decodeFields_txRing : decodeFields 0 o a b = decodeTxRing o a b := by simp [decodeFields, decodeWord]

theorem decodeFields_rxRing : decodeFields 1 o a b = decodeRxRing o a b := by simp [decodeFields, decodeWord]

theorem decodeFields_frontEnd : decodeFields 2 o a b = decodeFrontEnd o a b := by simp [decodeFields, decodeWord]

theorem decodeFields_control : decodeFields 3 o a b = decodeControl o a b := by simp [decodeFields, decodeWord]

theorem decodeFields_hostPort : decodeFields 4 o a b = decodeHostPort o a b := by simp [decodeFields, decodeWord]

theorem decodeFields_env : decodeFields 5 o a b = decodeEnv o a b := by simp [decodeFields, decodeWord]

theorem decodeFields_inject : decodeFields 6 o a b = decodeInject o a b := by simp [decodeFields, decodeWord]

end

/-- Settles O1: each word is built from fields its own unit's decoder reads, and a key position reads back its row and
column. -/
theorem encodedTransactionsDecodeBack : Obligations.EncodedTransactionsDecodeBack := fun i hi =>
  match i, hi with
  | .pushTx b, _ => decodeFields_txRing 0 0 b
  | .popTx, _ => decodeFields_txRing 1 0 0
  | .isEmptyTx, _ => decodeFields_txRing 2 0 0
  | .spaceTx, _ => decodeFields_txRing 3 0 0
  | .rdHeadTx, _ => decodeFields_txRing 4 0 0
  | .rdTailTx, _ => decodeFields_txRing 5 0 0
  | .wrHeadTx i, _ => decodeFields_txRing 6 i 0
  | .wrTailTx i, _ => decodeFields_txRing 7 i 0
  | .rdSlotTx i, _ => decodeFields_txRing 8 i 0
  | .wrSlotTx i b, _ => decodeFields_txRing 9 i b
  | .pushRx b, _ => decodeFields_rxRing 0 0 b
  | .popRx, _ => decodeFields_rxRing 1 0 0
  | .isEmptyRx, _ => decodeFields_rxRing 2 0 0
  | .spaceRx, _ => decodeFields_rxRing 3 0 0
  | .rdHeadRx, _ => decodeFields_rxRing 4 0 0
  | .rdTailRx, _ => decodeFields_rxRing 5 0 0
  | .wrHeadRx i, _ => decodeFields_rxRing 6 i 0
  | .wrTailRx i, _ => decodeFields_rxRing 7 i 0
  | .rdSlotRx i, _ => decodeFields_rxRing 8 i 0
  | .wrSlotRx i b, _ => decodeFields_rxRing 9 i b
  | .putc b, _ => decodeFields_frontEnd 0 0 b
  | .setModeRaw, _ => decodeFields_frontEnd 1 0 0
  | .setModeConsole, _ => decodeFields_frontEnd 1 0 1
  | .maskRx, _ => decodeFields_control 0 0 0
  | .maskTx, _ => decodeFields_control 0 0 1
  | .unmaskRx, _ => decodeFields_control 1 0 0
  | .unmaskTx, _ => decodeFields_control 1 0 1
  | .waitInput, _ => decodeFields_control 2 0 0
  | .waitInputTimeout, _ => decodeFields_control 2 0 1
  | .data b, _ => decodeFields_hostPort 0 0 b
  | .cmd b, _ => decodeFields_hostPort 1 0 b
  | .rxArrive b, _ => decodeFields_env 0 0 b
  | .txReady, _ => decodeFields_env 1 0 0
  | .keySet row col v, _ => (decodeFields_env 2 _ _).trans (keyOperands_fields row col v .keySet)
  | .keyEvent row col p, _ => (decodeFields_inject 0 _ _).trans (keyOperands_fields row col p .keyEvent)

/-! ## Words that decode (R110 to R118, R131) -/

/-- `i` is the transaction with the fields `u`, `o`, `a`, `b`. -/
structure Spells (u o : BitVec 4) (a : Field16) (b : Byte) (i : Instr) : Prop where
  encode_eq : encode i = mkWord u o a b
  transaction : isTransaction i = true

section
variable {u o : BitVec 4} {a : Field16} {b : Byte} {i j j0 j1 : Instr}

/-! What a field check accepts is the operation it checks for, with the fields it does not use zero. -/

theorem spells_of_toNat (o' : BitVec 4) (hj : Spells u o' a b j) (ho : o.toNat = o'.toNat) : Spells u o a b j :=
  BitVec.eq_of_toNat_eq ho ▸ hj

theorem usesNone_spells (o' : BitVec 4) (hj : Spells u o' 0 0 j) (ho : o.toNat = o'.toNat) (h : usesNone a b j = .ok i) :
    Spells u o a b i := by
  unfold usesNone at h
  split at h
  next hab =>
    obtain ⟨rfl, rfl⟩ := hab
    cases h
    exact spells_of_toNat o' hj ho
  next => cases h

theorem usesB_spells (o' : BitVec 4) (hj : Spells u o' 0 b j) (ho : o.toNat = o'.toNat) (h : usesB a j = .ok i) :
    Spells u o a b i := by
  unfold usesB at h
  split at h
  next ha =>
    subst ha
    cases h
    exact spells_of_toNat o' hj ho
  next => cases h

theorem usesA_spells (o' : BitVec 4) (hj : Spells u o' a 0 j) (ho : o.toNat = o'.toNat) (h : usesA b j = .ok i) :
    Spells u o a b i := by
  unfold usesA at h
  split at h
  next hb =>
    subst hb
    cases h
    exact spells_of_toNat o' hj ho
  next => cases h

theorem selects_spells (o' : BitVec 4) (hj0 : Spells u o' 0 0 j0) (hj1 : Spells u o' 0 1 j1) (ho : o.toNat = o'.toNat)
    (h : selects a b j0 j1 = .ok i) : Spells u o a b i := by
  unfold selects at h
  split at h
  next ha =>
    subst ha
    split at h
    next hb =>
      subst hb
      cases h
      exact spells_of_toNat o' hj0 ho
    next =>
      split at h
      next hb =>
        subst hb
        cases h
        exact spells_of_toNat o' hj1 ho
      next => cases h
  next => cases h

theorem keyOperands_spells (o' : BitVec 4) {mk : Fin 8 → Byte → Bool → Instr}
    (hmk : ∀ row col v, Spells u o' (keyA row col) (keyB v) (mk row col v)) (ho : o.toNat = o'.toNat)
    (h : keyOperands a b mk = .ok i) : Spells u o a b i := by
  obtain ⟨row, col, v, rfl, rfl, rfl⟩ := keyOperands_ok h
  exact spells_of_toNat o' (hmk row col v) ho

/-! Unit by unit, in the order of the operations. -/

theorem decodeTxRing_spells (h : decodeTxRing o a b = .ok i) : Spells 0 o a b i := by
  unfold decodeTxRing at h
  split at h
  next ho => exact usesB_spells 0 ⟨rfl, rfl⟩ ho h
  next ho => exact usesNone_spells 1 ⟨rfl, rfl⟩ ho h
  next ho => exact usesNone_spells 2 ⟨rfl, rfl⟩ ho h
  next ho => exact usesNone_spells 3 ⟨rfl, rfl⟩ ho h
  next ho => exact usesNone_spells 4 ⟨rfl, rfl⟩ ho h
  next ho => exact usesNone_spells 5 ⟨rfl, rfl⟩ ho h
  next ho => exact usesA_spells 6 ⟨rfl, rfl⟩ ho h
  next ho => exact usesA_spells 7 ⟨rfl, rfl⟩ ho h
  next ho => exact usesA_spells 8 ⟨rfl, rfl⟩ ho h
  next ho =>
    cases h
    exact spells_of_toNat 9 ⟨rfl, rfl⟩ ho
  next => cases h

theorem decodeRxRing_spells (h : decodeRxRing o a b = .ok i) : Spells 1 o a b i := by
  unfold decodeRxRing at h
  split at h
  next ho => exact usesB_spells 0 ⟨rfl, rfl⟩ ho h
  next ho => exact usesNone_spells 1 ⟨rfl, rfl⟩ ho h
  next ho => exact usesNone_spells 2 ⟨rfl, rfl⟩ ho h
  next ho => exact usesNone_spells 3 ⟨rfl, rfl⟩ ho h
  next ho => exact usesNone_spells 4 ⟨rfl, rfl⟩ ho h
  next ho => exact usesNone_spells 5 ⟨rfl, rfl⟩ ho h
  next ho => exact usesA_spells 6 ⟨rfl, rfl⟩ ho h
  next ho => exact usesA_spells 7 ⟨rfl, rfl⟩ ho h
  next ho => exact usesA_spells 8 ⟨rfl, rfl⟩ ho h
  next ho =>
    cases h
    exact spells_of_toNat 9 ⟨rfl, rfl⟩ ho
  next => cases h

theorem decodeFrontEnd_spells (h : decodeFrontEnd o a b = .ok i) : Spells 2 o a b i := by
  unfold decodeFrontEnd at h
  split at h
  next ho => exact usesB_spells 0 ⟨rfl, rfl⟩ ho h
  next ho => exact selects_spells 1 ⟨rfl, rfl⟩ ⟨rfl, rfl⟩ ho h
  next => cases h

theorem decodeControl_spells (h : decodeControl o a b = .ok i) : Spells 3 o a b i := by
  unfold decodeControl at h
  split at h
  next ho => exact selects_spells 0 ⟨rfl, rfl⟩ ⟨rfl, rfl⟩ ho h
  next ho => exact selects_spells 1 ⟨rfl, rfl⟩ ⟨rfl, rfl⟩ ho h
  next ho => exact selects_spells 2 ⟨rfl, rfl⟩ ⟨rfl, rfl⟩ ho h
  next => cases h

theorem decodeHostPort_spells (h : decodeHostPort o a b = .ok i) : Spells 4 o a b i := by
  unfold decodeHostPort at h
  split at h
  next ho => exact usesB_spells 0 ⟨rfl, rfl⟩ ho h
  next ho => exact usesB_spells 1 ⟨rfl, rfl⟩ ho h
  next => cases h

theorem decodeEnv_spells (h : decodeEnv o a b = .ok i) : Spells 5 o a b i := by
  unfold decodeEnv at h
  split at h
  next ho => exact usesB_spells 0 ⟨rfl, rfl⟩ ho h
  next ho => exact usesNone_spells 1 ⟨rfl, rfl⟩ ho h
  next ho => exact keyOperands_spells 2 (fun _ _ _ => ⟨rfl, rfl⟩) ho h
  next => cases h

theorem decodeInject_spells (h : decodeInject o a b = .ok i) : Spells 6 o a b i := by
  unfold decodeInject at h
  split at h
  next ho => exact keyOperands_spells 0 (fun _ _ _ => ⟨rfl, rfl⟩) ho h
  next => cases h

end

/-- What the decoder accepts is a transaction, and the word is its word. -/
theorem decodeWord_ok {w : Word} {i : Instr} (h : decodeWord w = .ok i) : encode i = w ∧ isTransaction i = true := by
  have hi : Spells (unitField w) (opField w) (aField w) (bField w) i := by
    unfold decodeWord at h
    split at h
    next hu => exact BitVec.eq_of_toNat_eq (y := 0) hu ▸ decodeTxRing_spells h
    next hu => exact BitVec.eq_of_toNat_eq (y := 1) hu ▸ decodeRxRing_spells h
    next hu => exact BitVec.eq_of_toNat_eq (y := 2) hu ▸ decodeFrontEnd_spells h
    next hu => exact BitVec.eq_of_toNat_eq (y := 3) hu ▸ decodeControl_spells h
    next hu => exact BitVec.eq_of_toNat_eq (y := 4) hu ▸ decodeHostPort_spells h
    next hu => exact BitVec.eq_of_toNat_eq (y := 5) hu ▸ decodeEnv_spells h
    next hu => exact BitVec.eq_of_toNat_eq (y := 6) hu ▸ decodeInject_spells h
    next => cases h
  exact ⟨hi.encode_eq.trans (mkWord_fields w), hi.transaction⟩

/-! ## Host bytes (R119 to R123) -/

theorem decodeWord_dataWord (b : Byte) : decodeWord (dataWord b) = .ok (.data b) :=
  encodedTransactionsDecodeBack (.data b) rfl

theorem decodeWord_cmdWord (b : Byte) : decodeWord (cmdWord b) = .ok (.cmd b) :=
  encodedTransactionsDecodeBack (.cmd b) rfl

theorem decodeIn_dataWord {d : DState} {b : Byte} {op : DataOp} (h : decodeData d b = op) :
    decodeIn d (dataWord b) = .ok op.toInstr := by
  rw [decodeIn, decodeWord_dataWord, ← h]

theorem decodeIn_cmdWord {d : DState} {b : Byte} {op : CmdOp} (h : decodeCmd b = op) :
    decodeIn d (cmdWord b) = .ok op.toInstr := by
  rw [decodeIn, decodeWord_cmdWord, ← h]

theorem decodeCmd_ramByte_one (a : BitVec 5) : decodeCmd (ramByte 1 a) = .rdRam a := by simp [decodeCmd]

theorem decodeCmd_ramByte_three (a : BitVec 5) : decodeCmd (ramByte 3 a) = .wrRam a := by simp [decodeCmd]

/-- Settles O2: a data-port row fixes its `dstate` and its byte, a RAM row is read off the selector bits of its byte, and a
fallback row asks that no other row of its port matches. -/
theorem encodedHostBytesDecodeBack : Obligations.EncodedHostBytesDecodeBack := fun _ _ i hi hwf hd =>
  match i, hi, hwf, hd with
  | .setleds, _, _, hd => hd .normal rfl ▸ decodeIn_dataWord (op := .setleds) rfl
  | .echo, _, _, hd => hd .normal rfl ▸ decodeIn_dataWord (op := .echo) rfl
  | .scanset, _, _, hd => hd .normal rfl ▸ decodeIn_dataWord (op := .scanset) rfl
  | .getid, _, _, hd => hd .normal rfl ▸ decodeIn_dataWord (op := .getid) rfl
  | .setrep, _, _, hd => hd .normal rfl ▸ decodeIn_dataWord (op := .setrep) rfl
  | .enable, _, _, hd => hd .normal rfl ▸ decodeIn_dataWord (op := .enable) rfl
  | .disable, _, _, hd => hd .normal rfl ▸ decodeIn_dataWord (op := .disable) rfl
  | .resend, _, _, hd => hd .normal rfl ▸ decodeIn_dataWord (op := .resend) rfl
  | .reset, _, _, hd => hd .normal rfl ▸ decodeIn_dataWord (op := .reset) rfl
  | .dnak b, _, hb, hd => hd .normal rfl ▸ decodeIn_dataWord (op := .dnak b) (decodeData_normal_of_isDnakByte hb)
  | .scansetArg b, _, _, hd => hd .awaitingScancodeSet rfl ▸ decodeIn_dataWord (op := .scansetArg b) rfl
  | .ledArg b, _, _, hd => hd .awaitingLedByte rfl ▸ decodeIn_dataWord (op := .ledArg b) rfl
  | .cmdbyteArg b, _, _, hd => hd .awaitingCommandByte rfl ▸ decodeIn_dataWord (op := .cmdbyteArg b) rfl
  | .echoMouseArg b, _, _, hd => hd .echoMouse rfl ▸ decodeIn_dataWord (op := .echoMouseArg b) rfl
  | .sendToMouseArg b, _, _, hd => hd .sendToMouse rfl ▸ decodeIn_dataWord (op := .sendToMouseArg b) rfl
  | .rdRam a, _, _, _ => decodeIn_cmdWord (op := .rdRam a) (decodeCmd_ramByte_one a)
  | .wrRam a, _, _, _ => decodeIn_cmdWord (op := .wrRam a) (decodeCmd_ramByte_three a)
  | .disAux, _, _, _ => decodeIn_cmdWord (op := .disAux) rfl
  | .enaAux, _, _, _ => decodeIn_cmdWord (op := .enaAux) rfl
  | .selfTest, _, _, _ => decodeIn_cmdWord (op := .selfTest) rfl
  | .disKbd, _, _, _ => decodeIn_cmdWord (op := .disKbd) rfl
  | .enaKbd, _, _, _ => decodeIn_cmdWord (op := .enaKbd) rfl
  | .echoMouse, _, _, _ => decodeIn_cmdWord (op := .echoMouse) rfl
  | .sendToMouse, _, _, _ => decodeIn_cmdWord (op := .sendToMouse) rfl
  | .cnak b, _, hb, _ => decodeIn_cmdWord (op := .cnak b) (decodeCmd_of_isCnakByte hb)

/-- A data-port byte is carried by the DATA word of what it decodes to, whose row is one of its `dstate`. -/
theorem decodeData_toInstr (d : DState) (b : Byte) :
    encode (decodeData d b).toInstr = dataWord b ∧ tableState (decodeData d b).toInstr = some d ∧
      ∀ x, (decodeData d b).toInstr = .dnak x → isDnakByte x = true := by
  cases d with
  | normal =>
    by_cases hb : isDnakByte b = true
    · rw [decodeData_normal_of_isDnakByte hb]
      exact ⟨rfl, rfl, fun x hx => Instr.dnak.inj hx ▸ hb⟩
    · have hmem : b ∈ dataCommandBytes := by simpa [isDnakByte] using hb
      simp only [dataCommandBytes, List.mem_cons, List.not_mem_nil, or_false] at hmem
      obtain rfl | rfl | rfl | rfl | rfl | rfl | rfl | rfl | rfl := hmem <;> exact ⟨rfl, rfl, nofun⟩
  | awaitingScancodeSet | awaitingLedByte | awaitingCommandByte | echoMouse | sendToMouse => exact ⟨rfl, rfl, nofun⟩

/-- A command-port byte is carried by the CMD word of what it decodes to, whose row is one of any `dstate`. -/
theorem decodeCmd_toInstr (b : Byte) :
    encode (decodeCmd b).toInstr = cmdWord b ∧ tableState (decodeCmd b).toInstr = none ∧
      ∀ x, (decodeCmd b).toInstr = .cnak x → isCnakByte x = true := by
  by_cases hb : isCnakByte b = true
  · rw [decodeCmd_of_isCnakByte hb]
    exact ⟨rfl, rfl, fun x hx => Instr.cnak.inj hx ▸ hb⟩
  by_cases hrd : b.extractLsb' 5 3 = 1
  · have hbyte := ramByte_fields b
    rw [hrd] at hbyte
    rw [← hbyte, decodeCmd_ramByte_one]
    exact ⟨rfl, rfl, nofun⟩
  by_cases hwr : b.extractLsb' 5 3 = 3
  · have hbyte := ramByte_fields b
    rw [hwr] at hbyte
    rw [← hbyte, decodeCmd_ramByte_three]
    exact ⟨rfl, rfl, nofun⟩
  · have hmem : b ∈ cmdCommandBytes := by
      by_contra hmem
      exact hb (by simpa [isCnakByte, hmem] using ⟨hrd, hwr⟩)
    simp only [cmdCommandBytes, List.mem_cons, List.not_mem_nil, or_false] at hmem
    obtain rfl | rfl | rfl | rfl | rfl | rfl | rfl := hmem <;> exact ⟨rfl, rfl, nofun⟩

theorem tableState_transaction {i : Instr} (h : isTransaction i = true) : tableState i = none := by
  cases i <;> simp [isTransaction, tableState] at h ⊢

/-- Settles O3: a transaction's word is inverted field by field, and a host byte's is the DATA or CMD word of the byte, which
the row it decodes to spells again. -/
theorem decodedWordsEncodeBack : Obligations.DecodedWordsEncodeBack := by
  intro d w i h
  unfold decodeIn at h
  split at h
  next b hw =>
    cases h
    obtain ⟨hbyte, hstate, hfallback⟩ := decodeData_toInstr d b
    refine ⟨hbyte.trans (decodeWord_ok hw).1, ?state, hfallback, ?cnak⟩
    case state => exact fun q hq => Option.some.inj (hq.symm.trans hstate)
    case cnak =>
      intro x hx
      rw [hx] at hstate
      cases hstate
  next b hw =>
    cases h
    obtain ⟨hbyte, hstate, hfallback⟩ := decodeCmd_toInstr b
    refine ⟨hbyte.trans (decodeWord_ok hw).1, ?state, ?dnak, hfallback⟩
    case state =>
      rw [hstate]
      exact nofun
    case dnak =>
      intro x hx
      rw [hx] at hstate
      cases hstate
  next =>
    obtain ⟨hword, htrans⟩ := decodeWord_ok h
    refine ⟨hword, ?_, ?_, ?_⟩
    · rw [tableState_transaction htrans]
      exact nofun
    · rintro b rfl
      cases htrans
    · rintro b rfl
      cases htrans

end Sys2Proof.Machine
end

section
/-! The opcode table (30_encoding.md section 5): a row fixes the bits its mask keeps, so a word matches it exactly when the
word is that row's instruction with some operand, a key position with a row below 8. -/

namespace Sys2Proof.Machine

/-! ## From the decoder to the table -/

theorem tableRow_of_transaction (i : Instr) (hi : isTransaction i = true) : Laws.TableRow.Statement i :=
  match i, hi with
  | .pushTx b, _ => Laws.TableRow.pushTx b
  | .popTx, _ => Laws.TableRow.popTx
  | .isEmptyTx, _ => Laws.TableRow.isEmptyTx
  | .spaceTx, _ => Laws.TableRow.spaceTx
  | .rdHeadTx, _ => Laws.TableRow.rdHeadTx
  | .rdTailTx, _ => Laws.TableRow.rdTailTx
  | .wrHeadTx i, _ => Laws.TableRow.wrHeadTx i
  | .wrTailTx i, _ => Laws.TableRow.wrTailTx i
  | .rdSlotTx i, _ => Laws.TableRow.rdSlotTx i
  | .wrSlotTx i b, _ => Laws.TableRow.wrSlotTx i b
  | .pushRx b, _ => Laws.TableRow.pushRx b
  | .popRx, _ => Laws.TableRow.popRx
  | .isEmptyRx, _ => Laws.TableRow.isEmptyRx
  | .spaceRx, _ => Laws.TableRow.spaceRx
  | .rdHeadRx, _ => Laws.TableRow.rdHeadRx
  | .rdTailRx, _ => Laws.TableRow.rdTailRx
  | .wrHeadRx i, _ => Laws.TableRow.wrHeadRx i
  | .wrTailRx i, _ => Laws.TableRow.wrTailRx i
  | .rdSlotRx i, _ => Laws.TableRow.rdSlotRx i
  | .wrSlotRx i b, _ => Laws.TableRow.wrSlotRx i b
  | .putc b, _ => Laws.TableRow.putc b
  | .setModeRaw, _ => Laws.TableRow.setModeRaw
  | .setModeConsole, _ => Laws.TableRow.setModeConsole
  | .maskRx, _ => Laws.TableRow.maskRx
  | .maskTx, _ => Laws.TableRow.maskTx
  | .unmaskRx, _ => Laws.TableRow.unmaskRx
  | .unmaskTx, _ => Laws.TableRow.unmaskTx
  | .waitInput, _ => Laws.TableRow.waitInput
  | .waitInputTimeout, _ => Laws.TableRow.waitInputTimeout
  | .data b, _ => Laws.TableRow.data b
  | .cmd b, _ => Laws.TableRow.cmd b
  | .rxArrive b, _ => Laws.TableRow.rxArrive b
  | .txReady, _ => Laws.TableRow.txReady
  | .keySet row col v, _ => Laws.TableRow.keySet row col v
  | .keyEvent row col p, _ => Laws.TableRow.keyEvent row col p

/-- The unit and the operation are the top byte. -/
theorem opcodeByte_eq (w : Word) : w.extractLsb' 24 8 = unitField w ++ opField w :=
  (BitVec.extractLsb'_append_extractLsb'_eq_extractLsb' (start₂ := 28) (start₁ := 24) (len₁ := 4) rfl).symm

theorem opcodeByte_eq_iff (w : Word) (u o : BitVec 4) :
    w.extractLsb' 24 8 = u ++ o ↔ unitField w = u ∧ opField w = o := by
  rw [opcodeByte_eq]
  refine ⟨fun h => ⟨?unit, ?op⟩, fun ⟨hu, ho⟩ => by rw [hu, ho]⟩
  case unit => rw [← BitVec.extractLsb'_append_eq_left (a := unitField w), h, BitVec.extractLsb'_append_eq_left]
  case op => rw [← BitVec.extractLsb'_append_eq_right (b := opField w), h, BitVec.extractLsb'_append_eq_right]

/-- The row of a key position is the low byte of `A`. -/
theorem keyRowByte_eq (w : Word) : w.extractLsb' 8 8 = (aField w).extractLsb' 0 8 := by
  apply BitVec.eq_of_getLsbD_eq
  intro i hi
  simp [aField, hi, show i < 16 by omega]

/-- A decoded key position names a row of the matrix. -/
theorem keyOperands_row_lt {a : Field16} {b : Byte} {mk : Fin 8 → Byte → Bool → Instr} {i : Instr}
    (h : keyOperands a b mk = .ok i) : (a.extractLsb' 0 8).toNat < 8 := by
  obtain ⟨row, col, v, -, rfl, -⟩ := keyOperands_ok h
  rw [keyA_row]
  exact row.isLt

/-- A key position that decodes has a row below 8. -/
theorem keyRow_lt_of_decodeWord {w : Word} {i : Instr} (h : decodeWord w = .ok i)
    (hkey : w.extractLsb' 24 8 = 0x52#8 ∨ w.extractLsb' 24 8 = 0x60#8) : (w.extractLsb' 8 8).toNat < 8 := by
  rw [keyRowByte_eq]
  rw [decodeWord] at h
  obtain hset | hevent := hkey
  · obtain ⟨hu, ho⟩ := (opcodeByte_eq_iff w 5 2).1 hset
    rw [hu, ho] at h
    exact keyOperands_row_lt h
  · obtain ⟨hu, ho⟩ := (opcodeByte_eq_iff w 6 0).1 hevent
    rw [hu, ho] at h
    exact keyOperands_row_lt h

/-! ## From the table to the decoder -/

section
variable {w bits : Word} {u o : BitVec 4}

/-- A row's mask keeps the unit and the operation, and `A` and `B` where they are fixed to zero. -/
theorem fields_of_row {ma : Field16} {mb : Byte} (h : w &&& mkWord 15 15 ma mb = mkWord u o 0 0) :
    unitField w = u ∧ opField w = o ∧ aField w &&& ma = 0 ∧ bField w &&& mb = 0 := by
  rw [← mkWord_fields w, mkWord_and, mkWord_inj, Laws.TableRow.and_fifteen, Laws.TableRow.and_fifteen] at h
  exact h

theorem eq_of_byteRow (h : w &&& 0xFFFFFF00 = mkWord u o 0 0) : mkWord u o 0 (bField w) = w := by
  obtain ⟨hu, ho, ha, -⟩ := fields_of_row (ma := 0xFFFF) (mb := 0) h
  rw [← hu, ← ho, ← ha, show aField w &&& 0xFFFF = aField w from BitVec.and_allOnes]
  exact mkWord_fields w

theorem eq_of_indexRow (h : w &&& 0xFF0000FF = mkWord u o 0 0) : mkWord u o (aField w) 0 = w := by
  obtain ⟨hu, ho, -, hb⟩ := fields_of_row (ma := 0) (mb := 0xFF) h
  rw [← hu, ← ho, ← hb, show bField w &&& 0xFF = bField w from BitVec.and_allOnes]
  exact mkWord_fields w

theorem eq_of_slotRow (h : w &&& 0xFF000000 = mkWord u o 0 0) : mkWord u o (aField w) (bField w) = w := by
  obtain ⟨hu, ho, -, -⟩ := fields_of_row (ma := 0) (mb := 0) h
  rw [← hu, ← ho]
  exact mkWord_fields w

theorem eq_of_fixedRow (h : w &&& 0xFFFFFFFF = bits) : bits = w :=
  h.symm.trans BitVec.and_allOnes

theorem keyB_of_masked {b : Byte} (h : b &&& 0xFE = 0) : keyB (b.getLsbD 0) = b := by
  revert b; decide

/-- A word of a key row with a row below 8 is that of the key position its fields name. -/
theorem eq_of_keyRow (hkey : w &&& 0xFF0000FE = mkWord u o 0 0) (hrow : w.extractLsb' 24 8 = u ++ o → (w.extractLsb' 8 8).toNat < 8) :
    ∃ row col v, mkWord u o (keyA row col) (keyB v) = w := by
  obtain ⟨hu, ho, -, hb⟩ := fields_of_row (ma := 0) (mb := 0xFE) hkey
  have hlt := hrow ((opcodeByte_eq_iff w u o).2 ⟨hu, ho⟩)
  rw [keyRowByte_eq] at hlt
  refine ⟨⟨_, hlt⟩, (aField w).extractLsb' 8 8, (bField w).getLsbD 0, ?_⟩
  rw [keyA_fields (aField w) hlt, keyB_of_masked hb, ← hu, ← ho]
  exact mkWord_fields w

end

/-- A word that matches a row of the table, and names a row below 8 for a key position, is some transaction's. -/
theorem exists_encode_of_row : ∀ r ∈ wordRows, ∀ w : Word, w &&& r.mask = r.bits →
    (w.extractLsb' 24 8 = 0x52#8 ∨ w.extractLsb' 24 8 = 0x60#8 → (w.extractLsb' 8 8).toNat < 8) →
    ∃ i, isTransaction i = true ∧ encode i = w := by
  simp only [wordRows, List.cons_append, List.nil_append, List.forall_mem_cons]
  refine ⟨
    fun _ h _ => ⟨.pushTx _, rfl, eq_of_byteRow (u := 0) (o := 0) h⟩,
    fun _ h _ => ⟨.popTx, rfl, eq_of_fixedRow h⟩,
    fun _ h _ => ⟨.isEmptyTx, rfl, eq_of_fixedRow h⟩,
    fun _ h _ => ⟨.spaceTx, rfl, eq_of_fixedRow h⟩,
    fun _ h _ => ⟨.rdHeadTx, rfl, eq_of_fixedRow h⟩,
    fun _ h _ => ⟨.rdTailTx, rfl, eq_of_fixedRow h⟩,
    fun _ h _ => ⟨.wrHeadTx _, rfl, eq_of_indexRow (u := 0) (o := 6) h⟩,
    fun _ h _ => ⟨.wrTailTx _, rfl, eq_of_indexRow (u := 0) (o := 7) h⟩,
    fun _ h _ => ⟨.rdSlotTx _, rfl, eq_of_indexRow (u := 0) (o := 8) h⟩,
    fun _ h _ => ⟨.wrSlotTx _ _, rfl, eq_of_slotRow (u := 0) (o := 9) h⟩,
    fun _ h _ => ⟨.pushRx _, rfl, eq_of_byteRow (u := 1) (o := 0) h⟩,
    fun _ h _ => ⟨.popRx, rfl, eq_of_fixedRow h⟩,
    fun _ h _ => ⟨.isEmptyRx, rfl, eq_of_fixedRow h⟩,
    fun _ h _ => ⟨.spaceRx, rfl, eq_of_fixedRow h⟩,
    fun _ h _ => ⟨.rdHeadRx, rfl, eq_of_fixedRow h⟩,
    fun _ h _ => ⟨.rdTailRx, rfl, eq_of_fixedRow h⟩,
    fun _ h _ => ⟨.wrHeadRx _, rfl, eq_of_indexRow (u := 1) (o := 6) h⟩,
    fun _ h _ => ⟨.wrTailRx _, rfl, eq_of_indexRow (u := 1) (o := 7) h⟩,
    fun _ h _ => ⟨.rdSlotRx _, rfl, eq_of_indexRow (u := 1) (o := 8) h⟩,
    fun _ h _ => ⟨.wrSlotRx _ _, rfl, eq_of_slotRow (u := 1) (o := 9) h⟩,
    fun _ h _ => ⟨.putc _, rfl, eq_of_byteRow (u := 2) (o := 0) h⟩,
    fun _ h _ => ⟨.setModeRaw, rfl, eq_of_fixedRow h⟩,
    fun _ h _ => ⟨.setModeConsole, rfl, eq_of_fixedRow h⟩,
    fun _ h _ => ⟨.maskRx, rfl, eq_of_fixedRow h⟩,
    fun _ h _ => ⟨.maskTx, rfl, eq_of_fixedRow h⟩,
    fun _ h _ => ⟨.unmaskRx, rfl, eq_of_fixedRow h⟩,
    fun _ h _ => ⟨.unmaskTx, rfl, eq_of_fixedRow h⟩,
    fun _ h _ => ⟨.waitInput, rfl, eq_of_fixedRow h⟩,
    fun _ h _ => ⟨.waitInputTimeout, rfl, eq_of_fixedRow h⟩,
    fun _ h _ => ⟨.data _, rfl, eq_of_byteRow (u := 4) (o := 0) h⟩,
    fun _ h _ => ⟨.cmd _, rfl, eq_of_byteRow (u := 4) (o := 1) h⟩,
    fun _ h _ => ⟨.rxArrive _, rfl, eq_of_byteRow (u := 5) (o := 0) h⟩,
    fun _ h _ => ⟨.txReady, rfl, eq_of_fixedRow h⟩,
    fun _ h hrow =>
      let ⟨row, col, v, hw⟩ := eq_of_keyRow h fun hkey => hrow (.inl hkey)
      ⟨.keySet row col v, rfl, hw⟩,
    fun _ h hrow =>
      let ⟨row, col, v, hw⟩ := eq_of_keyRow h fun hkey => hrow (.inr hkey)
      ⟨.keyEvent row col v, rfl, hw⟩,
    fun _ hr => absurd hr List.not_mem_nil⟩

/-- Settles O4: what decodes is a transaction's own word, which matches its row, and what matches a row is a transaction's
word, which decodes. -/
theorem decoderAcceptsExactlyTheTable : Obligations.DecoderAcceptsExactlyTheTable := by
  refine fun w => ⟨fun ⟨i, hi⟩ => ⟨?row, keyRow_lt_of_decodeWord hi⟩, fun ⟨⟨r, hr, hmatch⟩, hrow⟩ => ?decodes⟩
  case row =>
    obtain ⟨hword, htrans⟩ := decodeWord_ok hi
    exact hword ▸ tableRow_of_transaction i htrans
  case decodes =>
    obtain ⟨i, htrans, hword⟩ := exists_encode_of_row r hr w hmatch hrow
    exact ⟨i, hword ▸ encodedTransactionsDecodeBack i htrans⟩

/-- Settles O5: the rows are compared pair by pair, and each word is decoded. -/
theorem specWordsDecode : Obligations.SpecWordsDecode :=
  ⟨by decide, rfl, rfl, rfl, rfl, rfl, rfl, rfl, rfl, rfl, rfl, rfl⟩

end Sys2Proof.Machine
end

section
/-! What an operation can do, said once: a ring access moves one index or stores one byte of its ring, a host byte makes one
write of the translator and responds, and every operation of the block is one of nine effects. The claims about all
operations, and about the whole machine, go through these. -/

namespace Sys2Proof.Machine

/-! ## Accesses of a ring (40_ring_engine.md R151 to R170) -/

/-- What one access makes of a ring of `cap` slots. -/
inductive RingMove (cap : Nat) (x : Ring) : Ring → Prop where
  | same : RingMove cap x x
  | pushed (b : Byte) : RingMove cap x (x.pushed cap b)
  | popped : RingMove cap x (x.popped cap)
  | head (i : Nat) (hi : i < cap) : RingMove cap x { x with head := i }
  | tail (i : Nat) (hi : i < cap) : RingMove cap x { x with tail := i }
  | slot (i : Nat) (b : Byte) (hi : i < cap) : RingMove cap x { x with data := memInsert i b x.data }

section
variable {cap : Nat} {x y : Ring}

/-- The bound on the count follows from those on the indices, being a remainder (10_state.md R35). -/
theorem ringInBounds_iff : ringInBounds cap x = true ↔ x.head < cap ∧ x.tail < cap := by
  simp only [ringInBounds, Bool.and_eq_true, decide_eq_true_eq]
  refine ⟨And.left, fun h => ⟨h, ?_⟩⟩
  have hsum := ringSpace_add_ringCount h.1 h.2
  omega

theorem RingMove.inBounds (h : RingMove cap x y) (hx : ringInBounds cap x = true) : ringInBounds cap y = true := by
  obtain ⟨hhead, htail⟩ := ringInBounds_iff.1 hx
  rw [ringInBounds_iff]
  cases h with
  | same | slot => exact ⟨hhead, htail⟩
  | pushed b => exact ⟨nextIndex_lt hhead, htail⟩
  | popped => exact ⟨hhead, nextIndex_lt htail⟩
  | head i hi => exact ⟨hi, htail⟩
  | tail i hi => exact ⟨hhead, hi⟩

theorem RingMove.slotsWf (h : RingMove cap x y) (hx : ringInBounds cap x = true) (hdata : slotsWf cap x.data = true) :
    slotsWf cap y.data = true := by
  cases h with
  | same | popped | head | tail => exact hdata
  | pushed b => exact slotsWf_memInsert (ringInBounds_iff.1 hx).1 hdata
  | slot i b hi => exact slotsWf_memInsert hi hdata

end

/-- The index of ring `r` that the ISR side owns, the head of RX or the tail of TX, is the same (20_memory.md R93). -/
def keepsIsrIndex (r : RingId) (x y : Ring) : Prop :=
  match r with
  | .tx => y.tail = x.tail
  | .rx => y.head = x.head

theorem ringPush_moves (r : RingId) (b : Byte) (s : State) :
    ∃ x, RingMove (s.cap r) (s.ring r) x ∧ x.tail = (s.ring r).tail ∧ (ringPush r b s).2 = s.setRing r x := by
  cases hfull : ringFull (s.cap r) (s.ring r) with
  | true =>
    rw [ringPush_full hfull]
    exact ⟨_, .same, rfl, by cases r <;> rfl⟩
  | false =>
    rw [ringPush_room hfull]
    exact ⟨_, .pushed b, rfl, rfl⟩

theorem ringPop_moves (r : RingId) (s : State) :
    ∃ x d, RingMove (s.cap r) (s.ring r) x ∧ x.head = (s.ring r).head ∧
      (ringPop r s).2 = { s.setRing r x with draws := d } := by
  cases hempty : ringEmpty (s.ring r) with
  | true =>
    rw [ringPop_empty hempty]
    exact ⟨_, s.draws, .same, rfl, by cases r <;> rfl⟩
  | false =>
    cases r with
    | tx =>
      rw [ringPop_some_tx hempty]
      exact ⟨_, _, .popped, rfl, rfl⟩
    | rx =>
      rw [ringPop_some_rx hempty]
      exact ⟨_, _, .popped, rfl, rfl⟩

/-- What a ring transaction with word `w` does: it faults, or moves its ring, the ISR side's index only under the mask. -/
inductive RingAccess (r : RingId) (w : Word) (s : State) : State → Prop where
  | faults (code : FaultCode) (hcode : code = .indexBounds ∨ code = .ownership) :
      RingAccess r w s (raiseFault code w s)
  | moves (x : Ring) (d : Nat) (v : Ret) (hmove : RingMove (s.cap r) (s.ring r) x)
      (howner : s.mask r = false → keepsIsrIndex r (s.ring r) x) :
      RingAccess r w s { s.setRing r x with draws := d, ret := some v }

section
variable {r : RingId} {w : Word} {s t : State}

/-- A transaction that leaves the ring as it is. -/
theorem ringAccess_same (d : Nat) (v : Ret) : RingAccess r w s { s with draws := d, ret := some v } := by
  have h := RingAccess.moves (w := w) (s.ring r) d v .same fun _ => by cases r <;> rfl
  cases r <;> exact h

/-- A task-side write of what the ISR side owns is allowed only under the mask (40_ring_engine.md R171). -/
theorem mask_of_not_breaksOwnership (h : breaksOwnership true r s = false) : s.mask r = true := by
  simpa [breaksOwnership] using h

theorem pushTransaction_access {b : Byte} (h : pushTransaction r b w s = .next t) : RingAccess r w s t := by
  obtain ⟨-, hp⟩ | ⟨howner, hp⟩ := pushTransaction_cases r b w s <;> cases hp.symm.trans h
  · exact .faults _ (.inr rfl)
  · obtain ⟨x, hmove, htail, hx⟩ := ringPush_moves r b s
    rw [hx]
    refine .moves x (s.setRing r x).draws _ hmove fun hmask => ?_
    cases r with
    | tx => exact htail
    | rx => exact absurd (mask_of_not_breaksOwnership howner) (by rw [hmask]; decide)

theorem popTransaction_access (h : popTransaction r w s = .next t) : RingAccess r w s t := by
  obtain ⟨-, hp⟩ | ⟨howner, hp⟩ := popTransaction_cases r w s <;> cases hp.symm.trans h
  · exact .faults _ (.inr rfl)
  · obtain ⟨x, d, hmove, hhead, hx⟩ := ringPop_moves r s
    rw [hx]
    refine .moves x d _ hmove fun hmask => ?_
    cases r with
    | tx => exact absurd (mask_of_not_breaksOwnership howner) (by rw [hmask]; decide)
    | rx => exact hhead

theorem wrHeadTransaction_access {i : Field16} (h : wrHeadTransaction r i w s = .next t) : RingAccess r w s t := by
  obtain ⟨-, hp⟩ | ⟨-, -, hp⟩ | ⟨hi, howner, hp⟩ := wrHeadTransaction_cases r i w s <;> cases hp.symm.trans h
  · exact .faults _ (.inl rfl)
  · exact .faults _ (.inr rfl)
  · refine .moves _ (setHead r i.toNat s).draws _ (.head i.toNat hi) fun hmask => ?_
    cases r with
    | tx => exact rfl
    | rx => exact absurd (mask_of_not_breaksOwnership howner) (by rw [hmask]; decide)

theorem wrTailTransaction_access {i : Field16} (h : wrTailTransaction r i w s = .next t) : RingAccess r w s t := by
  obtain ⟨-, hp⟩ | ⟨-, -, hp⟩ | ⟨hi, howner, hp⟩ := wrTailTransaction_cases r i w s <;> cases hp.symm.trans h
  · exact .faults _ (.inl rfl)
  · exact .faults _ (.inr rfl)
  · refine .moves _ (setTail r i.toNat s).draws _ (.tail i.toNat hi) fun hmask => ?_
    cases r with
    | tx => exact absurd (mask_of_not_breaksOwnership howner) (by rw [hmask]; decide)
    | rx => exact rfl

theorem rdSlotTransaction_access {i : Field16} (h : rdSlotTransaction r i w s = .next t) : RingAccess r w s t := by
  obtain ⟨-, hp⟩ | ⟨-, hp⟩ := rdSlotTransaction_cases r i w s <;> cases hp.symm.trans h
  · exact .faults _ (.inl rfl)
  · exact ringAccess_same _ _

theorem wrSlotTransaction_access {i : Field16} {b : Byte} (h : wrSlotTransaction r i b w s = .next t) :
    RingAccess r w s t := by
  obtain ⟨-, hp⟩ | ⟨-, -, hp⟩ | ⟨hi, -, hp⟩ := wrSlotTransaction_cases r i b w s <;> cases hp.symm.trans h
  · exact .faults _ (.inl rfl)
  · exact .faults _ (.inr rfl)
  · exact .moves _ (slotWrite r i.toNat b s).draws _ (.slot i.toNat b hi) fun _ => by cases r <;> rfl

end

/-! ## Host bytes (42_i8042_data_port.md, 43_i8042_command_port.md) -/

/-- The one write of a host byte beside `dstate`, its response and the cache. -/
inductive HostWrite (i : Instr) (s : State) : State → Prop where
  | keep : HostWrite i s s
  | enable (v : Bool) : HostWrite i s (setKbEnabled v s)
  | codeSet (b : Byte) (c : CodeSet) (hi : i = .scansetArg b) : HostWrite i s { s with kbc := { s.kbc with codeSet := c } }
  | ramAddr (a : BitVec 5) (hi : i = .wrRam a) : HostWrite i s { s with kbc := { s.kbc with ramAddr := a } }
  | ram (a : BitVec 5) (v : Byte) : HostWrite i s (writeRam a v s)
  | auxChannel (b : Byte) : HostWrite i s (emit .aux b s)
  | auxOut (b : Byte) : HostWrite i s { s with out := { s.out with aux := s.out.aux ++ [b] } }

/-- A host byte makes its write, leaves `dstate` somewhere and responds; a response that is cached fits the buffer. -/
inductive HostEffect (i : Instr) (s : State) : State → Prop where
  | intro {u : State} (hwrite : HostWrite i s u) (resp : List Byte) (cached : Bool) (d : DState)
      (hlen : cached = true → resp.length ≤ 3 := by simp) : HostEffect i s (respondData resp cached (setDState d u))

/-- Responding writes, beside `dstate`, the cache of the translator: a cached response's length, or what it was. -/
theorem respondData_kbc (resp : List Byte) (cached : Bool) (d : DState) (u : State) :
    ∃ len buf, (respondData resp cached (setDState d u)).kbc =
        { u.kbc with dstate := d, resendLen := len, resendBuf := buf } ∧
      (len = u.kbc.resendLen ∨ (cached = true ∧ len = resp.length)) := by
  rw [respondData_eq]
  cases cached with
  | false => exact ⟨_, _, rfl, .inl rfl⟩
  | true =>
    refine ⟨_, _, cacheResponse_eq resp _, ?_⟩
    rw [cacheResponse]
    split
    · exact .inr ⟨rfl, rfl⟩
    · exact .inl rfl

/-- `write_ram` writes, of the translator, its RAM and the keyboard enable (R305). -/
theorem writeRam_kbc (a : BitVec 5) (v : Byte) (s : State) :
    ∃ on, (writeRam a v s).kbc = { s.kbc with ram := memWrite a.toNat v s.kbc.ram, enabled := on } := by
  by_cases ha : a = 0
  · subst ha
    rw [writeRam_zero]
    exact ⟨_, rfl⟩
  · rw [writeRam_of_ne_zero ha]
    exact ⟨s.kbc.enabled, rfl⟩

theorem exec_scansetArg_effect (b : Byte) (s : State) :
    ∃ t, exec (.scansetArg b) s = .next t ∧ HostEffect (.scansetArg b) s t := by
  change ∃ t, execScansetArg b s = .next t ∧ _
  unfold execScansetArg
  split
  · exact ⟨_, rfl, .intro .keep _ true .normal⟩
  split
  · exact ⟨_, rfl, .intro (.codeSet b .set1 rfl) _ true .normal⟩
  split
  · exact ⟨_, rfl, .intro (.codeSet b .set2 rfl) _ true .normal⟩
  · exact ⟨_, rfl, .intro .keep _ false .normal⟩

/-- Every host byte completes. -/
theorem exec_hostByte (i : Instr) (s : State) (hi : isTransaction i = false) :
    ∃ t, exec i s = .next t ∧ HostEffect i s t :=
  match i, hi with
  | .setleds, _ => ⟨_, rfl, .intro .keep _ true .awaitingLedByte⟩
  | .echo, _ => ⟨_, rfl, .intro .keep _ true .normal⟩
  | .scanset, _ => ⟨_, rfl, .intro .keep _ true .awaitingScancodeSet⟩
  | .getid, _ => ⟨_, rfl, .intro .keep _ true .normal⟩
  | .setrep, _ => ⟨_, rfl, .intro .keep _ true .normal⟩
  | .enable, _ => ⟨_, exec_enable s, .intro (.enable true) _ true .normal⟩
  | .disable, _ => ⟨_, exec_disable s, .intro (.enable false) _ true .normal⟩
  | .resend, _ => ⟨_, rfl, .intro .keep (resendResponse s) false .normal⟩
  | .reset, _ => ⟨_, rfl, .intro .keep _ true .normal⟩
  | .dnak _, _ => ⟨_, rfl, .intro .keep [s.cfg.nak] false s.kbc.dstate⟩
  | .scansetArg b, _ => exec_scansetArg_effect b s
  | .ledArg _, _ => ⟨_, rfl, .intro .keep _ true .normal⟩
  | .cmdbyteArg b, _ => ⟨_, rfl, .intro (.ram s.kbc.ramAddr b) [] false .normal⟩
  | .echoMouseArg b, _ => ⟨_, rfl, .intro (.auxChannel b) [] false .normal⟩
  | .sendToMouseArg b, _ => ⟨_, rfl, .intro (.auxOut b) [] false .normal⟩
  | .rdRam a, _ => ⟨_, rfl, .intro .keep [ramRead a s.kbc] false s.kbc.dstate⟩
  | .wrRam a, _ => ⟨_, rfl, .intro (.ramAddr a rfl) [] false .awaitingCommandByte⟩
  | .disAux, _ => ⟨_, rfl, .intro (.ram 0 _) [] false (writeRam 0 _ s).kbc.dstate⟩
  | .enaAux, _ => ⟨_, rfl, .intro (.ram 0 _) [] false (writeRam 0 _ s).kbc.dstate⟩
  | .selfTest, _ => ⟨_, rfl, .intro .keep [s.cfg.selfTestOk] false s.kbc.dstate⟩
  | .disKbd, _ => ⟨_, rfl, .intro (.ram 0 _) [] false (writeRam 0 _ s).kbc.dstate⟩
  | .enaKbd, _ => ⟨_, rfl, .intro (.ram 0 _) [] false (writeRam 0 _ s).kbc.dstate⟩
  | .echoMouse, _ => ⟨_, rfl, .intro .keep [] false .echoMouse⟩
  | .sendToMouse, _ => ⟨_, rfl, .intro .keep [] false .sendToMouse⟩
  | .cnak _, _ => ⟨_, rfl, .intro .keep [s.cfg.nak] false s.kbc.dstate⟩

/-- A host byte writes the translator and its streams, and returns `unit`. -/
theorem HostEffect.frame {i : Instr} {s t : State} (h : HostEffect i s t) :
    t = { s with
      kbc := t.kbc, out := { s.out with host := t.out.host, aux := t.out.aux, ctl := t.out.ctl }, ret := some .unit } := by
  obtain ⟨hwrite, resp, cached, d⟩ := h
  rw [respondData_eq]
  cases hwrite with
  | keep | codeSet | ramAddr | auxChannel | auxOut => rfl
  | enable v => rw [setKbEnabled_eq]; rfl
  | ram a v => rw [writeRam_state]; rfl

theorem isTransaction_dataOp (op : DataOp) : isTransaction op.toInstr = false := by cases op <;> rfl

theorem isTransaction_cmdOp (op : CmdOp) : isTransaction op.toInstr = false := by cases op <;> rfl

/-- DATA runs the instruction its byte decodes to in the context of `dstate`, CMD the one its byte decodes to (R119). -/
theorem exec_data (b : Byte) (s : State) : exec (.data b) s = exec (decodeData s.kbc.dstate b).toInstr s := by
  change dataOperation (decodeData s.kbc.dstate b) s = _
  cases decodeData s.kbc.dstate b <;> rfl

theorem exec_cmd (b : Byte) (s : State) : exec (.cmd b) s = exec (decodeCmd b).toInstr s := by
  change cmdOperation (decodeCmd b) s = _
  cases decodeCmd b <;> rfl

/-- `j` is the host byte that `i` is or carries. -/
inductive Carries (s : State) : Instr → Instr → Prop where
  | byte (i : Instr) : Carries s i i
  | data (b : Byte) : Carries s (.data b) (decodeData s.kbc.dstate b).toInstr
  | cmd (b : Byte) : Carries s (.cmd b) (decodeCmd b).toInstr

/-- Every host byte completes on either port. -/
theorem exec_port (i : Instr) (s : State) (hi : (∃ b, i = .data b) ∨ ∃ b, i = .cmd b) :
    ∃ j t, Carries s i j ∧ exec i s = .next t ∧ HostEffect j s t := by
  obtain ⟨b, rfl⟩ | ⟨b, rfl⟩ := hi
  · obtain ⟨t, ht, heff⟩ := exec_hostByte (decodeData s.kbc.dstate b).toInstr s (isTransaction_dataOp _)
    exact ⟨_, t, .data b, (exec_data b s).trans ht, heff⟩
  · obtain ⟨t, ht, heff⟩ := exec_hostByte (decodeCmd b).toInstr s (isTransaction_cmdOp _)
    exact ⟨_, t, .cmd b, (exec_cmd b s).trans ht, heff⟩

/-! ## Every operation -/

/-- The state after operation `i`, from `s`. -/
inductive ExecEffect (i : Instr) (s : State) : State → Prop where
  | ring (r : RingId) {t : State} (h : RingAccess r (encode i) s t) : ExecEffect i s t
  | lineFeed (x : Ring) (ok : Bool) (hmove : RingMove s.cfg.capTx s.tx x) (htail : x.tail = s.tx.tail)
      (hi : issuerOf (encode i) = .task) :
      ExecEffect i s (inProgress { s with tx := x, front := { s.front with lfPending := true, ok := ok } })
  | mode (m : TxMode) (hi : i = .setModeRaw ∨ i = .setModeConsole) : ExecEffect i s (setMode m s)
  | maskRx (v : Bool) (hi : i = .maskRx ∨ i = .unmaskRx) : ExecEffect i s (returns .unit (s.setMask .rx v))
  | maskTx (v : Bool) (hi : i = .maskTx ∨ i = .unmaskTx) : ExecEffect i s (returns .unit (s.setMask .tx v))
  | wait (timeout : Bool) (hi : issuerOf (encode i) = .task) : ExecEffect i s (waitOn timeout s)
  | port (p : Transport) (d : Nat) : ExecEffect i s (returns .unit { s with port := p, draws := d })
  | key (row : Fin 8) (col : Byte) (v : Bool) (hi : i = .keySet row col v) (hcol : col.toNat < s.cfg.ncol) :
      ExecEffect i s (returns .unit (latchRowChange (setKey row col.toNat v s)))
  | event (row : Fin 8) (col : Nat) (p : Bool) (v : Ret) : ExecEffect i s (returns v (translate row col p s).2)
  | host {j : Instr} {t : State} (hj : Carries s i j) (h : HostEffect j s t) : ExecEffect i s t

section
variable {s t : State}

theorem execPutc_effect {b : Byte} (h : execPutc b s = .next t) : ExecEffect (.putc b) s t := by
  unfold execPutc at h
  split at h
  · cases h
    obtain ⟨x, hmove, htail, hx⟩ := ringPush_moves .tx carriageReturn s
    rw [putcLineFeed, hx]
    exact .lineFeed x _ hmove htail (by simp [encode, issuerOf])
  · cases h
    obtain ⟨x, hmove, htail, hx⟩ := ringPush_moves .tx b s
    rw [hx]
    exact .ring .tx (.moves x s.draws _ hmove fun _ => htail)

theorem execRxArrive_effect {b : Byte} (h : execRxArrive b s = .next t) : ExecEffect (.rxArrive b) s t := by
  unfold execRxArrive at h
  split at h <;> cases h
  · exact .port _ _
  · exact .port _ s.draws

theorem execKeySet_effect {row : Fin 8} {col : Byte} {v : Bool} (h : execKeySet row col v s = .next t) :
    ExecEffect (.keySet row col v) s t := by
  unfold execKeySet at h
  split at h <;> cases h
  exact .key row col v rfl (of_decide_eq_true ‹_›)

theorem execKeyEvent_effect {row : Fin 8} {col : Byte} {p : Bool} (h : execKeyEvent row col p s = .next t) :
    ExecEffect (.keyEvent row col p) s t := by
  unfold execKeyEvent at h
  split at h <;> cases h
  exact .event row col.toNat p _

theorem hostByte_effect {i : Instr} (hi : isTransaction i = false) (h : exec i s = .next t) : ExecEffect i s t := by
  obtain ⟨u, hu, heff⟩ := exec_hostByte i s hi
  cases hu.symm.trans h
  exact .host (.byte i) heff

theorem port_effect {i : Instr} (hi : (∃ b, i = .data b) ∨ ∃ b, i = .cmd b) (h : exec i s = .next t) :
    ExecEffect i s t := by
  obtain ⟨j, u, hj, hu, heff⟩ := exec_port i s hi
  cases hu.symm.trans h
  exact .host hj heff

end

/-- What an operation that answers a next state did. -/
theorem exec_effect (i : Instr) {s t : State} (h : exec i s = .next t) : ExecEffect i s t := by
  cases i with
  | pushTx b => exact .ring .tx (pushTransaction_access h)
  | popTx => exact .ring .tx (popTransaction_access h)
  | isEmptyTx | spaceTx | rdHeadTx | rdTailTx => cases h; exact .ring .tx (ringAccess_same s.draws _)
  | wrHeadTx x => exact .ring .tx (wrHeadTransaction_access h)
  | wrTailTx x => exact .ring .tx (wrTailTransaction_access h)
  | rdSlotTx x => exact .ring .tx (rdSlotTransaction_access h)
  | wrSlotTx x b => exact .ring .tx (wrSlotTransaction_access h)
  | pushRx b => exact .ring .rx (pushTransaction_access h)
  | popRx => exact .ring .rx (popTransaction_access h)
  | isEmptyRx | spaceRx | rdHeadRx | rdTailRx => cases h; exact .ring .rx (ringAccess_same s.draws _)
  | wrHeadRx x => exact .ring .rx (wrHeadTransaction_access h)
  | wrTailRx x => exact .ring .rx (wrTailTransaction_access h)
  | rdSlotRx x => exact .ring .rx (rdSlotTransaction_access h)
  | wrSlotRx x b => exact .ring .rx (wrSlotTransaction_access h)
  | putc b => exact execPutc_effect h
  | setModeRaw => cases h; exact .mode .raw (.inl rfl)
  | setModeConsole => cases h; exact .mode .console (.inr rfl)
  | maskRx => cases h; exact .maskRx true (.inl rfl)
  | maskTx => cases h; exact .maskTx true (.inl rfl)
  | unmaskRx => cases h; exact .maskRx false (.inr rfl)
  | unmaskTx => cases h; exact .maskTx false (.inr rfl)
  | waitInput => cases h; exact .wait false (by decide)
  | waitInputTimeout => cases h; exact .wait true (by decide)
  | data b => exact port_effect (.inl ⟨b, rfl⟩) h
  | cmd b => exact port_effect (.inr ⟨b, rfl⟩) h
  | rxArrive b => exact execRxArrive_effect h
  | txReady => cases h; exact .port _ s.draws
  | keySet row col v => exact execKeySet_effect h
  | keyEvent row col p => exact execKeyEvent_effect h
  | _ => exact hostByte_effect rfl h

end Sys2Proof.Machine
end

section
/-! The claims about every operation of the block: precise faults, the ISR side's indices, which instruction writes which
register, and what a host byte reads and writes (10_state.md, 60_exceptions.md sections 1 and 4). -/

namespace Sys2Proof.Machine

/-! ## What an operation leaves as it was -/

section
variable {i : Instr} {s t : State}

/-- A WAIT_INPUT writes `ev_input` and the model's own fields (45_control.md R372). -/
theorem waitOn_frame (timeout : Bool) (s : State) :
    waitOn timeout s = { s with
      evInput := (waitOn timeout s).evInput, wait := (waitOn timeout s).wait, ret := (waitOn timeout s).ret
      draws := (waitOn timeout s).draws } := by
  obtain ⟨-, h⟩ | ⟨-, -, h⟩ | ⟨-, -, h | h⟩ := waitOn_cases timeout s <;> rw [h] <;> rfl

/-- KEY_SET writes the key matrix and the row-change request (41_matrix_scanner.md R202). -/
theorem latchRowChange_setKey_frame (row : Fin 8) (col : Nat) (v : Bool) (s : State) :
    latchRowChange (setKey row col v s) = { s with
      keys := (setKey row col v s).keys
      scan := { s.scan with irqPending := (latchRowChange (setKey row col v s)).scan.irqPending } } := by
  obtain ⟨-, h⟩ | ⟨-, h⟩ := latchRowChange_cases (setKey row col v s) <;> rw [h] <;> rfl

/-- No operation writes the configuration, the scanner but for its request, the wake event, `tx_wire`, `edge_log`,
`rx_dropped`, the inputs or the turns. -/
theorem ExecEffect.frame (h : ExecEffect i s t) :
    t = { s with
      tx := t.tx, rx := t.rx, front := t.front, maskRx := t.maskRx, maskTx := t.maskTx, kbc := t.kbc
      scan := { s.scan with irqPending := t.scan.irqPending }
      evInput := t.evInput, port := t.port, keys := t.keys, fault := t.fault
      out := { s.out with host := t.out.host, aux := t.out.aux, ctl := t.out.ctl }
      ret := t.ret, wait := t.wait, draws := t.draws } := by
  cases h with
  | ring r h =>
    cases h with
    | faults code hcode => rfl
    | moves x d v hmove howner => cases r <;> rfl
  | lineFeed | mode | maskRx | maskTx | port => rfl
  | wait timeout hi => rw [waitOn_frame]
  | key row col v hi hcol => rw [latchRowChange_setKey_frame]; rfl
  | event row col p v => rw [translate_state]; rfl
  | host hj h => rw [h.frame]

/-- An operation raises one of its two faults, with its own word, or leaves the fault register. -/
theorem ExecEffect.fault_cases (h : ExecEffect i s t) :
    (∃ code, (code = .indexBounds ∨ code = .ownership) ∧ t = raiseFault code (encode i) s) ∨ t.fault = s.fault := by
  cases h with
  | ring r h =>
    cases h with
    | faults code hcode => exact .inl ⟨code, hcode, rfl⟩
    | moves x d v hmove howner => exact .inr (setRing_fault ..)
  | lineFeed | mode | maskRx | maskTx | port => exact .inr rfl
  | wait timeout hi => exact .inr (by rw [waitOn_frame])
  | key row col v hi hcol => exact .inr (by rw [latchRowChange_setKey_frame]; rfl)
  | event row col p v => exact .inr (by rw [translate_state]; rfl)
  | host hj h => exact .inr (by rw [h.frame])

end

/-- Settles O21: the only effects that write the fault register are the two faults of a ring access. -/
theorem faultsArePrecise : Obligations.FaultsArePrecise := by
  intro i s t h hne
  obtain ⟨code, hcode, rfl⟩ | hsame := (exec_effect i h).fault_cases
  · exact ⟨code, hcode, rfl⟩
  · exact absurd hsame hne

/-- Settles O22: a ring is moved by its own transactions, which keep the ISR side's index while unmasked, and by PUTC,
which keeps the tail of TX. -/
theorem unmaskedIsrIndicesStay : Obligations.UnmaskedIsrIndicesStay := by
  intro i s t h
  cases exec_effect i h with
  | ring r h =>
    cases h with
    | faults code hcode => exact ⟨fun _ => rfl, fun _ => rfl⟩
    | moves x d v hmove howner =>
      cases r with
      | tx => exact ⟨fun _ => rfl, howner⟩
      | rx => exact ⟨howner, fun _ => rfl⟩
  | lineFeed x ok hmove htail hi => exact ⟨fun _ => rfl, fun _ => htail⟩
  | mode | maskRx | maskTx | port => exact ⟨fun _ => rfl, fun _ => rfl⟩
  | wait timeout hi =>
    rw [waitOn_frame]
    exact ⟨fun _ => rfl, fun _ => rfl⟩
  | key row col v hi hcol =>
    rw [latchRowChange_setKey_frame]
    exact ⟨fun _ => rfl, fun _ => rfl⟩
  | event row col p v =>
    rw [translate_state]
    exact ⟨fun _ => rfl, fun _ => rfl⟩
  | host hj h =>
    rw [h.frame]
    exact ⟨fun _ => rfl, fun _ => rfl⟩

/-! ## The writers of a register -/

/-- The registers that `t` holds otherwise than `s` are those `i` may write; a register that is plainly the same needs no
writer. -/
structure WrittenBy (i : Instr) (s t : State) : Prop where
  maskRx : t.maskRx ≠ s.maskRx → i = .maskRx ∨ i = .unmaskRx := by exact fun h => absurd rfl h
  maskTx : t.maskTx ≠ s.maskTx → i = .maskTx ∨ i = .unmaskTx := by exact fun h => absurd rfl h
  mode : t.front.mode ≠ s.front.mode → i = .setModeRaw ∨ i = .setModeConsole := by exact fun h => absurd rfl h
  codeSet : t.kbc.codeSet ≠ s.kbc.codeSet →
    ∃ b, i = .scansetArg b ∨ (i = .data b ∧ s.kbc.dstate = .awaitingScancodeSet) := by exact fun h => absurd rfl h
  ramAddr : t.kbc.ramAddr ≠ s.kbc.ramAddr → ∃ a, i = .wrRam a ∨ ∃ b, i = .cmd b ∧ decodeCmd b = .wrRam a := by
    exact fun h => absurd rfl h
  keys : t.keys ≠ s.keys → ∃ row col v, i = .keySet row col v := by exact fun h => absurd rfl h

section
variable {i j : Instr} {s t : State}

/-- The set argument is a data byte of its own `dstate`. -/
theorem Carries.scansetArg {b : Byte} (h : Carries s i (.scansetArg b)) :
    ∃ b, i = .scansetArg b ∨ (i = .data b ∧ s.kbc.dstate = .awaitingScancodeSet) := by
  generalize hj : Instr.scansetArg b = j at h
  cases h with
  | byte => exact ⟨b, .inl hj.symm⟩
  | data x =>
    have hstate := (decodeData_toInstr s.kbc.dstate x).2.1
    rw [← hj] at hstate
    exact ⟨x, .inr ⟨rfl, (Option.some.inj hstate).symm⟩⟩
  | cmd x =>
    have hstate := (decodeCmd_toInstr x).2.1
    rw [← hj] at hstate
    cases hstate

/-- WR_RAM is a command byte. -/
theorem Carries.wrRam {a : BitVec 5} (h : Carries s i (.wrRam a)) :
    ∃ a, i = .wrRam a ∨ ∃ b, i = .cmd b ∧ decodeCmd b = .wrRam a := by
  generalize hj : Instr.wrRam a = j at h
  cases h with
  | byte => exact ⟨a, .inl hj.symm⟩
  | data x =>
    have hstate := (decodeData_toInstr s.kbc.dstate x).2.1
    rw [← hj] at hstate
    cases hstate
  | cmd x =>
    refine ⟨a, .inr ⟨x, rfl, ?_⟩⟩
    cases hop : decodeCmd x <;> rw [hop] at hj <;> cases hj
    rfl

theorem HostEffect.writtenBy (h : HostEffect j s t) (hj : Carries s i j) : WrittenBy i s t := by
  have hframe := h.frame
  obtain @⟨u, hwrite, resp, cached, d, -⟩ := h
  obtain ⟨len, buf, hkbc, -⟩ := respondData_kbc resp cached d u
  refine { maskRx := ?_, maskTx := ?_, mode := ?_, keys := ?_, codeSet := fun hne => ?codeSet, ramAddr := fun hne => ?ramAddr }
  case codeSet =>
    rw [hkbc] at hne
    cases hwrite with
    | keep | ramAddr | auxChannel | auxOut => exact absurd rfl hne
    | enable v => exact absurd (by rw [setKbEnabled_eq]) hne
    | codeSet b c hb => exact (hb ▸ hj).scansetArg
    | ram a v =>
      obtain ⟨on, hram⟩ := writeRam_kbc a v s
      exact absurd (by rw [hram]) hne
  case ramAddr =>
    rw [hkbc] at hne
    cases hwrite with
    | keep | codeSet | auxChannel | auxOut => exact absurd rfl hne
    | enable v => exact absurd (by rw [setKbEnabled_eq]) hne
    | ramAddr a ha => exact (ha ▸ hj).wrRam
    | ram a v =>
      obtain ⟨on, hram⟩ := writeRam_kbc a v s
      exact absurd (by rw [hram]) hne
  all_goals
    rw [hframe]
    exact fun h => absurd rfl h

theorem ExecEffect.writtenBy (h : ExecEffect i s t) : WrittenBy i s t := by
  cases h with
  | ring r h =>
    cases h with
    | faults code hcode => exact {}
    | moves x d v hmove howner => cases r <;> exact {}
  | lineFeed | port => exact {}
  | mode m hi => exact { mode := fun _ => hi }
  | maskRx v hi => exact { maskRx := fun _ => hi }
  | maskTx v hi => exact { maskTx := fun _ => hi }
  | wait timeout hi =>
    rw [waitOn_frame]
    exact {}
  | key row col v hi hcol =>
    rw [latchRowChange_setKey_frame]
    exact { keys := fun _ => ⟨row, col, v, hi⟩ }
  | event row col p v =>
    rw [translate_state]
    exact {}
  | host hj h => exact h.writtenBy hj

end

/-- Settles O53: the writers are read off the effects, the rest is their common frame. -/
theorem registersHaveTheirWriters : Obligations.RegistersHaveTheirWriters := by
  intro i s t h
  have heff := exec_effect i h
  obtain ⟨hmaskRx, hmaskTx, hmode, hcodeSet, hramAddr, hkeys⟩ := heff.writtenBy
  exact ⟨hmaskRx, hmaskTx, hmode, hcodeSet, hramAddr, hkeys, congrArg (·.scan) heff.frame,
    congrArg (·.evKbwake) heff.frame, congrArg (·.out) heff.frame⟩

/-! ## What a host byte reads and writes -/

/-- Settles O39: each port runs the host byte its own decodes to, and that completes inside its frame. -/
theorem everyHostByteCompletes : Obligations.EveryHostByteCompletes := by
  refine fun s b => ⟨exec_data b s, exec_cmd b s, fun i hi => ?_⟩
  have hport : (∃ b, i = .data b) ∨ ∃ b, i = .cmd b := (List.mem_pair.1 hi).imp (⟨b, ·⟩) (⟨b, ·⟩)
  obtain ⟨j, t, -, ht, heff⟩ := exec_port i s hport
  exact ⟨t, ht, heff.frame⟩

/-- Two states with the same configuration and translator, and the same output so far. -/
structure SameTranslator (s u : State) : Prop where
  cfg : s.cfg = u.cfg
  kbc : s.kbc = u.kbc
  out : s.out = u.out

section
variable {s u : State}

theorem SameTranslator.mapKbc (h : SameTranslator s u) (f : Kbc → Kbc) :
    SameTranslator { s with kbc := f s.kbc } { u with kbc := f u.kbc } :=
  ⟨h.cfg, congrArg f h.kbc, h.out⟩

theorem SameTranslator.mapOut (h : SameTranslator s u) (f : Streams → Streams) :
    SameTranslator { s with out := f s.out } { u with out := f u.out } :=
  ⟨h.cfg, h.kbc, congrArg f h.out⟩

theorem SameTranslator.setDState (h : SameTranslator s u) (d : DState) :
    SameTranslator (setDState d s) (setDState d u) :=
  h.mapKbc ({ · with dstate := d })

theorem SameTranslator.setKbEnabled (h : SameTranslator s u) (v : Bool) :
    SameTranslator (setKbEnabled v s) (setKbEnabled v u) := by
  obtain ⟨hcfg, hkbc, hout⟩ := h
  rw [setKbEnabled_eq, setKbEnabled_eq]
  constructor <;> simp only [hcfg, hkbc, hout]

theorem SameTranslator.writeRam (h : SameTranslator s u) {a a' : BitVec 5} {v v' : Byte} (ha : a = a') (hv : v = v') :
    SameTranslator (writeRam a v s) (writeRam a' v' u) := by
  obtain ⟨hcfg, hkbc, hout⟩ := h
  subst ha hv
  by_cases ha : a = 0
  · subst ha
    rw [writeRam_zero, writeRam_zero]
    constructor <;> simp only [hcfg, hkbc, hout]
  · rw [writeRam_of_ne_zero ha, writeRam_of_ne_zero ha]
    constructor <;> simp only [hcfg, hkbc, hout]

theorem SameTranslator.respondData (h : SameTranslator s u) {resp resp' : List Byte} (hresp : resp = resp')
    (cached : Bool) : SameTranslator (respondData resp cached s) (respondData resp' cached u) := by
  obtain ⟨hcfg, hkbc, hout⟩ := h
  rw [hresp, respondData_eq, respondData_eq]
  constructor <;> simp only [hcfg, hkbc, hout]

/-- A CMD response is a DATA response that is not cached. -/
theorem SameTranslator.respondCmd (h : SameTranslator s u) {resp resp' : List Byte} (hresp : resp = resp') :
    SameTranslator (respondCmd resp s) (respondCmd resp' u) :=
  h.respondData hresp false

theorem SameTranslator.exec_scansetArg (h : SameTranslator s u) (b : Byte) :
    ∃ t v, exec (.scansetArg b) s = .next t ∧ exec (.scansetArg b) u = .next v ∧ SameTranslator t v := by
  change ∃ t v, execScansetArg b s = .next t ∧ execScansetArg b u = .next v ∧ _
  unfold execScansetArg
  split_ifs
  case pos => exact ⟨_, _, rfl, rfl, (h.setDState _).respondData (by rw [h.cfg, h.kbc]) _⟩
  case pos => exact ⟨_, _, rfl, rfl, ((h.mapKbc ({ · with codeSet := .set1 })).setDState _).respondData (by rw [h.cfg]) _⟩
  case pos => exact ⟨_, _, rfl, rfl, ((h.mapKbc ({ · with codeSet := .set2 })).setDState _).respondData (by rw [h.cfg]) _⟩
  case neg => exact ⟨_, _, rfl, rfl, (h.setDState _).respondData (by rw [h.cfg]) _⟩

/-- A host byte's writes, its response and what it caches are computed from the configuration and the translator. -/
theorem SameTranslator.exec_hostByte (h : SameTranslator s u) (i : Instr) (hi : isTransaction i = false) :
    ∃ t v, exec i s = .next t ∧ exec i u = .next v ∧ SameTranslator t v :=
  match i, hi with
  | .setleds, _ => ⟨_, _, rfl, rfl, (h.setDState _).respondData (by rw [h.cfg]) _⟩
  | .echo, _ => ⟨_, _, rfl, rfl, (h.setDState _).respondData (by rw [h.cfg]) _⟩
  | .scanset, _ => ⟨_, _, rfl, rfl, (h.setDState _).respondData (by rw [h.cfg]) _⟩
  | .getid, _ => ⟨_, _, rfl, rfl, (h.setDState _).respondData (by rw [h.cfg]) _⟩
  | .setrep, _ => ⟨_, _, rfl, rfl, (h.setDState _).respondData (by rw [h.cfg]) _⟩
  | .enable, _ => ⟨_, _, rfl, rfl, ((h.setDState _).setKbEnabled _).respondData (by rw [h.cfg]) _⟩
  | .disable, _ => ⟨_, _, rfl, rfl, ((h.setDState _).setKbEnabled _).respondData (by rw [h.cfg]) _⟩
  | .resend, _ =>
    ⟨_, _, rfl, rfl, (h.setDState _).respondData (by simp only [resendResponse, h.cfg, h.kbc]) _⟩
  | .reset, _ => ⟨_, _, rfl, rfl, (h.setDState _).respondData (by rw [h.cfg]) _⟩
  | .dnak _, _ => ⟨_, _, rfl, rfl, h.respondData (by rw [h.cfg]) _⟩
  | .scansetArg b, _ => h.exec_scansetArg b
  | .ledArg _, _ => ⟨_, _, rfl, rfl, (h.setDState _).respondData (by rw [h.cfg]) _⟩
  | .cmdbyteArg _, _ => ⟨_, _, rfl, rfl, ((h.writeRam (by rw [h.kbc]) rfl).setDState _).respondData rfl _⟩
  | .echoMouseArg b, _ =>
    ⟨_, _, rfl, rfl, ((h.mapOut fun o => { o with host := o.host ++ [(.aux, b)] }).setDState _).respondData rfl _⟩
  | .sendToMouseArg b, _ =>
    ⟨_, _, rfl, rfl, ((h.mapOut fun o => { o with aux := o.aux ++ [b] }).setDState _).respondData rfl _⟩
  | .rdRam _, _ => ⟨_, _, rfl, rfl, h.respondCmd (by rw [h.kbc])⟩
  | .wrRam a, _ =>
    ⟨_, _, rfl, rfl, (h.mapKbc ({ · with ramAddr := a, dstate := .awaitingCommandByte })).respondCmd rfl⟩
  | .disAux, _ => ⟨_, _, rfl, rfl, (h.writeRam rfl (by rw [h.kbc])).respondCmd rfl⟩
  | .enaAux, _ => ⟨_, _, rfl, rfl, (h.writeRam rfl (by rw [h.kbc])).respondCmd rfl⟩
  | .selfTest, _ => ⟨_, _, rfl, rfl, h.respondCmd (by rw [h.cfg])⟩
  | .disKbd, _ => ⟨_, _, rfl, rfl, (h.writeRam rfl (by rw [h.kbc])).respondCmd rfl⟩
  | .enaKbd, _ => ⟨_, _, rfl, rfl, (h.writeRam rfl (by rw [h.kbc])).respondCmd rfl⟩
  | .echoMouse, _ => ⟨_, _, rfl, rfl, (h.setDState _).respondCmd rfl⟩
  | .sendToMouse, _ => ⟨_, _, rfl, rfl, (h.setDState _).respondCmd rfl⟩
  | .cnak _, _ => ⟨_, _, rfl, rfl, h.respondCmd (by rw [h.cfg])⟩

/-- Both ports decode their byte in the same context. -/
theorem SameTranslator.exec_port (h : SameTranslator s u) {i : Instr} (hi : (∃ b, i = .data b) ∨ ∃ b, i = .cmd b) :
    ∃ t v, exec i s = .next t ∧ exec i u = .next v ∧ SameTranslator t v := by
  obtain ⟨b, rfl⟩ | ⟨b, rfl⟩ := hi
  · rw [exec_data, exec_data, h.kbc]
    exact h.exec_hostByte _ (isTransaction_dataOp _)
  · rw [exec_cmd, exec_cmd]
    exact h.exec_hostByte _ (isTransaction_cmdOp _)

end

/-- Settles O40: the two runs go in step through states that agree on the translator. -/
theorem hostBytesSeeOnlyTheTranslator : Obligations.HostBytesSeeOnlyTheTranslator := by
  intro s u b hcfg hkbc hout i hi t v ht hv
  have hport : (∃ b, i = .data b) ∨ ∃ b, i = .cmd b := (List.mem_pair.1 hi).imp (⟨b, ·⟩) (⟨b, ·⟩)
  obtain ⟨t', v', ht', hv', hsame⟩ := (SameTranslator.mk hcfg hkbc hout).exec_port hport
  cases ht'.symm.trans ht
  cases hv'.symm.trans hv
  exact ⟨hsame.kbc, hsame.out⟩

end Sys2Proof.Machine
end

section
/-! What a step of the machine can do, said once, and the step invariants: a predicate that a reset, the fault of the
check, every agent step and every operation keep is kept by every step. -/

namespace Sys2Proof.Machine

/-! ## The agent steps (30_encoding.md R129) -/

/-- The state after the enabled step of agent `a`, from `s`. -/
inductive AgentEffect (a : Agent) (s : State) : State → Prop where
  | receive (x : Ring) (n : Nat) (hmove : RingMove s.cfg.capRx s.rx x) :
      AgentEffect a s { s with
        rx := x, port := { s.port with rxPending := false }, out := { s.out with rxDropped := n }, evInput := true }
  | transmit (x : Ring) (d : Nat) (p : Transport) (wire : List Byte) (hmove : RingMove s.cfg.capTx s.tx x) :
      AgentEffect a s { s with tx := x, port := p, out := { s.out with wire := wire }, draws := d }
  | lineFeed (x : Ring) (v : Ret) (hmove : RingMove s.cfg.capTx s.tx x) :
      AgentEffect a s { s with tx := x, front := { s.front with lfPending := false }, ret := some v }
  | wait (timeout : Bool) (hlf : s.front.lfPending = false) : AgentEffect a s (waitOn timeout s)
  | row (hen : s.scan.irqEn = true) : AgentEffect a s (isrRow s)
  | wake (ha : a = .scan) (hstate : s.scan.state = .waitingForInterrupt) (hev : s.evKbwake = true) :
      AgentEffect a s (scanWake s)
  | column (hstate : s.scan.state = .polling) (hcol : s.scan.col < s.cfg.ncol) : AgentEffect a s (scanCol s)
  | passEnd (hstate : s.scan.state = .polling) : AgentEffect a s (scanEnd s)

section
variable {a : Agent} {s : State}

theorem isrRx_effect (s : State) : AgentEffect a s (isrRx s) := by
  obtain ⟨x, hmove, -, hx⟩ := ringPush_moves .rx s.port.rxByte s
  rw [isrRx, hx]
  exact .receive x _ hmove

theorem isrTx_effect (s : State) : AgentEffect a s (isrTx s) := by
  obtain ⟨x, d, hmove, -, hx⟩ := ringPop_moves .tx s
  unfold isrTx
  split
  next b t hpop =>
    rw [hpop] at hx
    cases hx
    exact .transmit x d _ _ hmove
  next t hpop =>
    rw [hpop] at hx
    cases hx
    exact .transmit x d s.port s.out.wire hmove

theorem taskLf_effect (s : State) : AgentEffect a s (taskLf s) := by
  obtain ⟨x, hmove, -, hx⟩ := ringPush_moves .tx lineFeed s
  rw [taskLf, hx]
  exact .lineFeed x _ hmove

/-- What an enabled agent step did. -/
theorem agentStep_effect {st : AgentStep} (h : agentStepOf a s = some st) : AgentEffect a s (runAgentStep st s) := by
  cases a with
  | task =>
    simp only [agentStepOf] at h
    split at h
    · cases h
      exact taskLf_effect s
    next hlf =>
      split at h
      next timeout hwait =>
        split at h <;> cases h
        exact .wait _ (by simpa using hlf)
      next => cases h
  | isrRx =>
    simp only [agentStepOf] at h
    split at h <;> cases h
    exact isrRx_effect s
  | isrTx =>
    simp only [agentStepOf] at h
    split at h <;> cases h
    exact isrTx_effect s
  | isrRow =>
    simp only [agentStepOf] at h
    split at h <;> cases h
    next hrow => exact .row (Bool.and_eq_true_iff.1 hrow).1
  | scan =>
    simp only [agentStepOf] at h
    split at h
    next hstate =>
      split at h <;> cases h
      next hev => exact .wake rfl hstate hev
    next hstate =>
      split at h
      next hcol =>
        cases h
        exact .column hstate hcol
      next =>
        split at h <;> cases h
        exact .passEnd hstate
  | host | env | harness => cases h

end

/-! ## One step -/

/-- The issuer of `i` has nothing due and does not hold, as it must to issue `i` (45_control.md R372, R374). -/
structure MayIssue (i : Instr) (s : State) : Prop where
  due : agentStepOf (issuerOf (encode i)) s = none
  holds : holds (issuerOf (encode i)) s = false

/-- A turn of agent `a` before the check of 60_exceptions.md R403: a pass, its due step, or an operation. -/
inductive TurnEffect (a : Agent) (s : State) : State → Prop where
  | pass : TurnEffect a s s
  | agentStep {t : State} (h : AgentEffect a s t) : TurnEffect a s t
  | operation {t : State} (i : Instr) (rest : List Word) (hi : MayIssue i { s with inputs := rest })
      (h : ExecEffect i { s with inputs := rest } t) : TurnEffect a s t

/-- A turn of agent `a`: its effect, or the fault of the check where that would leave a ring out of bounds (log 16). -/
inductive TurnOutcome (a : Agent) (s : State) : State → Prop where
  | passed {t : State} (h : TurnEffect a s t) : TurnOutcome a s t
  | invariantFault {u : State} (h : TurnEffect a s u) (hbounds : ringsInBounds u = false) (w : Word) (rest : List Word) :
      TurnOutcome a s (raiseFault .invariant w { s with inputs := rest })

/-- One step: a reset, an idle block, or a turn of some agent, the listed one where a turn is listed. -/
inductive StepEffect (s : State) : State → Prop where
  | reset (ts : List Turn) (hts : s.turns = .reset :: ts) : StepEffect s (resetBlock { s with turns := ts })
  | idle : StepEffect s s
  | turn {t : State} (a : Agent) (d : Nat) (hf : s.fault = none)
      (hlisted : ∀ b, s.turns.head? = some (.agent b) → b = a)
      (h : TurnOutcome a { s with turns := s.turns.tail, draws := d } t) : StepEffect s t

section
variable {a : Agent} {s t : State}

theorem takeTurn_outcome (h : takeTurn a s = .next t) : TurnOutcome a s t := by
  obtain ⟨st, hst, hcheck⟩ | ⟨-, rfl, -⟩ | ⟨w, rest, i, hst, hholds, hinput, hdecode, hcheck⟩ := takeTurn_cases h
  · have heff : TurnEffect a s (runAgentStep st s) := .agentStep (agentStep_effect hst)
    obtain ⟨ht, -⟩ | ⟨u, hu, hbounds, rfl⟩ := checkInvariant_cases hcheck
    · cases ht
      exact .passed heff
    · cases hu
      exact .invariantFault heff hbounds 0 s.inputs
  · exact .passed .pass
  · have hissuer : issuerOf (encode i) = a := by rw [(decodeWord_ok hdecode).1, (nextInput_issuer hinput).1]
    have hi : MayIssue i { s with inputs := rest } := ⟨hissuer ▸ hst, hissuer ▸ hholds⟩
    obtain ⟨ht, -⟩ | ⟨u, hu, hbounds, rfl⟩ := checkInvariant_cases hcheck
    · exact .passed (.operation i rest hi (exec_effect i ht))
    · exact .invariantFault (.operation i rest hi (exec_effect i hu)) hbounds w rest

/-- What a step that answers a next state did. -/
theorem step_effect (h : step s = .next t) : StepEffect s t := by
  obtain ⟨ts, hts, rfl⟩ | ⟨hf, -, rfl | ⟨a, u, ht, ⟨ts, hts, rfl⟩ | ⟨hts, hu⟩⟩⟩ := step_cases h
  · exact .reset ts hts
  · exact .idle
  · refine .turn a s.draws hf (fun b hb => ?_) ?_
    · rw [hts] at hb
      cases hb
      rfl
    · rw [hts]
      exact takeTurn_outcome ht
  · have hnone : ∀ b, s.turns.head? = some (.agent b) → b = a := by
      rw [hts]
      exact nofun
    obtain rfl | rfl := hu
    · refine .turn a u.draws hf hnone ?_
      rw [hts, List.tail_nil, ← hts]
      exact takeTurn_outcome ht
    · refine .turn a (s.draws + 1) hf hnone ?_
      rw [hts, List.tail_nil, ← hts]
      exact takeTurn_outcome ht

end

/-! ## Invariants of the step -/

/-- `P` does not read the inputs, the turns and the draws, and a reset, the fault of the check, every agent step and
every operation an agent may issue keep it. -/
structure StepKeeps (P : State → Prop) : Prop where
  schedule : ∀ (s : State) (rest : List Word) (ts : List Turn) (d : Nat), P s →
    P { s with inputs := rest, turns := ts, draws := d }
  reset : ∀ s : State, P s → P (resetBlock s)
  check : ∀ (s : State) (w : Word), P s → P (raiseFault .invariant w s)
  agentStep : ∀ {a : Agent} {s t : State}, AgentEffect a s t → P s → P t
  operation : ∀ {i : Instr} {s t : State}, MayIssue i s → ExecEffect i s t → P s → P t

theorem StepKeeps.step {P : State → Prop} (hP : StepKeeps P) {s t : State} (h : step s = .next t) (hs : P s) : P t := by
  cases step_effect h with
  | reset ts hts => exact hP.reset _ (hP.schedule s s.inputs ts s.draws hs)
  | idle => exact hs
  | turn a d hf hlisted h =>
    have hturn : ∀ rest, P { s with inputs := rest, turns := s.turns.tail, draws := d } := fun rest =>
      hP.schedule s rest s.turns.tail d hs
    cases h with
    | passed h =>
      cases h with
      | pass => exact hturn s.inputs
      | agentStep h => exact hP.agentStep h (hturn s.inputs)
      | operation i rest hi h => exact hP.operation hi h (hturn rest)
    | invariantFault h hbounds w rest => exact hP.check _ w (hturn rest)

end Sys2Proof.Machine
end

section
/-! The storage invariant and the check (10_state.md R35, 60_exceptions.md R403): every access of a ring and every write of a
byte space stays inside its size, so the check after a step never fires from a state in bounds. -/

namespace Sys2Proof.Machine

/-! ## What an agent step leaves as it was -/

/-- The end of a pass writes the scanner, its `prev` excepted. -/
theorem scanEnd_frame (s : State) : scanEnd s = { s with scan := { (scanEnd s).scan with prev := s.scan.prev } } := by
  rcases Nat.lt_or_ge (idlePasses s) s.cfg.pollIdleLimit with hbelow | hlimit
  · rw [scanEnd_below_limit hbelow]
  · rw [scanEnd_at_limit hlimit, arm, repollAfterArm_eq]
    split <;> rfl

/-- No agent step writes the configuration, the masks, the translator, the key matrix, the fault register, `aux_out`, the
control events, the inputs or the turns. -/
theorem AgentEffect.frame {a : Agent} {s t : State} (h : AgentEffect a s t) :
    t = { s with
      tx := t.tx, rx := t.rx, front := t.front, scan := t.scan, evInput := t.evInput, evKbwake := t.evKbwake
      port := t.port
      out := { s.out with host := t.out.host, wire := t.out.wire, edges := t.out.edges, rxDropped := t.out.rxDropped }
      ret := t.ret, wait := t.wait, draws := t.draws } := by
  cases h with
  | receive | transmit | lineFeed | row | wake => rfl
  | wait timeout hlf => rw [waitOn_frame]
  | column hstate hcol => rw [scanCol_eq rfl rfl]
  | passEnd hstate => rw [scanEnd_frame]

/-- An agent step stores the row byte of the column due, below the number of columns, or leaves `prev`. -/
theorem AgentEffect.prev_cases {a : Agent} {s t : State} (h : AgentEffect a s t) :
    t.scan.prev = s.scan.prev ∨ (s.scan.col < s.cfg.ncol ∧
      t.scan.prev = memWrite s.scan.col (columnState s.scan.col s) s.scan.prev) := by
  cases h with
  | receive | transmit | lineFeed | row | wake => exact .inl rfl
  | wait timeout hlf => exact .inl (by rw [waitOn_frame])
  | column hstate hcol => exact .inr ⟨hcol, by rw [scanCol_eq rfl rfl]⟩
  | passEnd hstate => exact .inl (by rw [scanEnd_frame])

/-! ## Which operations write the translator, and which the key matrix -/

section
variable {i : Instr} {s t : State}

theorem ExecEffect.host_cases (h : ExecEffect i s t) :
    (t.kbc = s.kbc ∧ t.out.ctl = s.out.ctl) ∨ ∃ j, HostEffect j s t := by
  cases h with
  | ring r h =>
    cases h with
    | faults code hcode => exact .inl ⟨rfl, rfl⟩
    | moves x d v hmove howner => exact .inl ⟨setRing_kbc .., congrArg (·.ctl) (setRing_out ..)⟩
  | lineFeed | mode | maskRx | maskTx | port => exact .inl ⟨rfl, rfl⟩
  | wait timeout hi =>
    rw [waitOn_frame]
    exact .inl ⟨rfl, rfl⟩
  | key row col v hi hcol =>
    rw [latchRowChange_setKey_frame]
    exact .inl ⟨rfl, rfl⟩
  | event row col p v =>
    rw [translate_state]
    exact .inl ⟨rfl, rfl⟩
  | host hj h => exact .inr ⟨_, h⟩

theorem ExecEffect.key_cases (h : ExecEffect i s t) :
    (t.scan = s.scan ∧ t.keys = s.keys) ∨ ∃ (row : Fin 8) (col : Byte) (v : Bool), col.toNat < s.cfg.ncol ∧
      t = returns .unit (latchRowChange (setKey row col.toNat v s)) := by
  cases h with
  | ring r h =>
    cases h with
    | faults code hcode => exact .inl ⟨rfl, rfl⟩
    | moves x d v hmove howner => exact .inl ⟨setRing_scan .., setRing_keys ..⟩
  | lineFeed | mode | maskRx | maskTx | port => exact .inl ⟨rfl, rfl⟩
  | wait timeout hi =>
    rw [waitOn_frame]
    exact .inl ⟨rfl, rfl⟩
  | key row col v hi hcol => exact .inr ⟨row, col, v, hcol, rfl⟩
  | event row col p v =>
    rw [translate_state]
    exact .inl ⟨rfl, rfl⟩
  | host hj h =>
    rw [h.frame]
    exact .inl ⟨rfl, rfl⟩

end

/-! ## What a step makes of the rings -/

section
variable {s t : State}

/-- An operation moves the rings as its accesses may, if at all. -/
theorem ExecEffect.ring_moves {i : Instr} (h : ExecEffect i s t) :
    RingMove s.cfg.capTx s.tx t.tx ∧ RingMove s.cfg.capRx s.rx t.rx := by
  cases h with
  | ring r h =>
    cases h with
    | faults code hcode => exact ⟨.same, .same⟩
    | moves x d v hmove howner =>
      cases r with
      | tx => exact ⟨hmove, .same⟩
      | rx => exact ⟨.same, hmove⟩
  | lineFeed x ok hmove htail hi => exact ⟨hmove, .same⟩
  | mode | maskRx | maskTx | port => exact ⟨.same, .same⟩
  | wait timeout hi =>
    rw [waitOn_frame]
    exact ⟨.same, .same⟩
  | key row col v hi hcol =>
    rw [latchRowChange_setKey_frame]
    exact ⟨.same, .same⟩
  | event row col p v =>
    rw [translate_state]
    exact ⟨.same, .same⟩
  | host hj h =>
    rw [h.frame]
    exact ⟨.same, .same⟩

theorem AgentEffect.ring_moves {a : Agent} (h : AgentEffect a s t) :
    RingMove s.cfg.capTx s.tx t.tx ∧ RingMove s.cfg.capRx s.rx t.rx := by
  cases h with
  | receive x n hmove => exact ⟨.same, hmove⟩
  | transmit x d p wire hmove => exact ⟨hmove, .same⟩
  | lineFeed x v hmove => exact ⟨hmove, .same⟩
  | wait timeout hlf =>
    rw [waitOn_frame]
    exact ⟨.same, .same⟩
  | row | wake => exact ⟨.same, .same⟩
  | column hstate hcol =>
    rw [scanCol_eq rfl rfl]
    exact ⟨.same, .same⟩
  | passEnd hstate =>
    rw [scanEnd_frame]
    exact ⟨.same, .same⟩

end

/-! ## The storage invariant, field by field -/

/-- `storageOk` as a proposition for each space. -/
structure GoodStorage (s : State) : Prop where
  cfg : s.cfg.wf = true
  txBounds : ringInBounds s.cfg.capTx s.tx = true
  rxBounds : ringInBounds s.cfg.capRx s.rx = true
  txData : slotsWf s.cfg.capTx s.tx.data = true
  rxData : slotsWf s.cfg.capRx s.rx.data = true
  ram : Memory.wf 32 s.kbc.ram = true
  prev : Memory.wf s.cfg.ncol s.scan.prev = true
  keys : Memory.wf s.cfg.ncol s.keys = true

theorem ringsInBounds_iff {s : State} :
    ringsInBounds s = true ↔ ringInBounds s.cfg.capTx s.tx = true ∧ ringInBounds s.cfg.capRx s.rx = true :=
  Bool.and_eq_true_iff

theorem storageOk_iff {s : State} : storageOk s = true ↔ GoodStorage s := by
  simp only [storageOk, memoriesCanonical, Bool.and_eq_true, ringsInBounds_iff]
  exact ⟨fun ⟨⟨hcfg, htx, hrx⟩, ⟨⟨⟨htxData, hrxData⟩, hram⟩, hprev⟩, hkeys⟩ =>
      ⟨hcfg, htx, hrx, htxData, hrxData, hram, hprev, hkeys⟩,
    fun ⟨hcfg, htx, hrx, htxData, hrxData, hram, hprev, hkeys⟩ =>
      ⟨⟨hcfg, htx, hrx⟩, ⟨⟨⟨htxData, hrxData⟩, hram⟩, hprev⟩, hkeys⟩⟩

section
variable {s t : State}

/-- A step that moves the rings as their accesses may, and keeps the configuration and the other spaces good. -/
theorem GoodStorage.of_moves (h : GoodStorage s) (hcfg : t.cfg = s.cfg)
    (hmoves : RingMove s.cfg.capTx s.tx t.tx ∧ RingMove s.cfg.capRx s.rx t.rx) (hram : Memory.wf 32 t.kbc.ram = true)
    (hprev : Memory.wf s.cfg.ncol t.scan.prev = true) (hkeys : Memory.wf s.cfg.ncol t.keys = true) : GoodStorage t := by
  obtain ⟨htx, hrx⟩ := hmoves
  rw [← hcfg] at hprev hkeys
  refine ⟨?_, ?_, ?_, ?_, ?_, hram, hprev, hkeys⟩ <;> rw [hcfg]
  · exact h.cfg
  · exact htx.inBounds h.txBounds
  · exact hrx.inBounds h.rxBounds
  · exact htx.slotsWf h.txBounds h.txData
  · exact hrx.slotsWf h.rxBounds h.rxData

/-- A host byte writes the RAM below its size, if at all. -/
theorem HostEffect.ram_wf {i : Instr} (h : HostEffect i s t) (hram : Memory.wf 32 s.kbc.ram = true) :
    Memory.wf 32 t.kbc.ram = true := by
  obtain @⟨u, hwrite, resp, cached, d, -⟩ := h
  obtain ⟨len, buf, hkbc, -⟩ := respondData_kbc resp cached d u
  rw [hkbc]
  cases hwrite with
  | keep | codeSet | ramAddr | auxChannel | auxOut => exact hram
  | enable v => rw [setKbEnabled_eq]; exact hram
  | ram a v =>
    obtain ⟨on, hwritten⟩ := writeRam_kbc a v s
    rw [hwritten]
    exact wf_memWrite a.isLt hram

theorem GoodStorage.operation (h : GoodStorage s) {i : Instr} (heff : ExecEffect i s t) : GoodStorage t := by
  refine h.of_moves (congrArg (·.cfg) heff.frame) heff.ring_moves ?ram ?prev ?keys
  case ram =>
    obtain ⟨hkbc, -⟩ | ⟨j, hhost⟩ := heff.host_cases
    · exact hkbc ▸ h.ram
    · exact hhost.ram_wf h.ram
  case prev => exact congrArg (·.scan.prev) heff.frame ▸ h.prev
  case keys =>
    obtain ⟨-, hkeys⟩ | ⟨row, col, v, hcol, rfl⟩ := heff.key_cases
    · exact hkeys ▸ h.keys
    · rw [latchRowChange_setKey_frame]
      exact wf_memWrite hcol h.keys

theorem GoodStorage.agentStep (h : GoodStorage s) {a : Agent} (heff : AgentEffect a s t) : GoodStorage t := by
  refine h.of_moves (congrArg (·.cfg) heff.frame) heff.ring_moves ?ram ?prev ?keys
  case ram => exact congrArg (·.kbc.ram) heff.frame ▸ h.ram
  case prev =>
    obtain hprev | ⟨hcol, hprev⟩ := heff.prev_cases
    · exact hprev ▸ h.prev
    · exact hprev ▸ wf_memWrite hcol h.prev
  case keys => exact congrArg (·.keys) heff.frame ▸ h.keys

end

/-! ## The reset state -/

/-- An admitted capacity is positive (00_scope.md R11). -/
theorem cap_pos {cap : Nat} (h : Params.capOk cap = true) : 0 < cap := by
  simp only [Params.capOk, List.any_eq_true, beq_iff_eq] at h
  obtain ⟨k, -, rfl⟩ := h
  exact Nat.two_pow_pos _

theorem cap_pos_of_wf {c : Params} (h : c.wf = true) : 0 < c.capTx ∧ 0 < c.capRx := by
  simp only [Params.wf, Bool.and_eq_true] at h
  exact ⟨cap_pos h.1.1.1.1.1.1, cap_pos h.1.1.1.1.1.2⟩

theorem goodStorage_initial {c : Params} {keys : Mem} (hc : c.wf = true) (hkeys : Memory.wf c.ncol keys = true) :
    GoodStorage (State.initial c keys) := by
  obtain ⟨htx, hrx⟩ := cap_pos_of_wf hc
  exact
    { cfg := hc
      txBounds := ringInBounds_iff.2 ⟨htx, htx⟩
      rxBounds := ringInBounds_iff.2 ⟨hrx, hrx⟩
      txData := rfl
      rxData := rfl
      ram := rfl
      prev := rfl
      keys := hkeys }

theorem GoodStorage.reset {s : State} (h : GoodStorage s) : GoodStorage (resetBlock s) :=
  { goodStorage_initial h.cfg h.keys with }

/-! ## Every step -/

theorem stepKeeps_cfg (c : Params) : StepKeeps fun s => s.cfg = c where
  schedule _ _ _ _ h := h
  reset _ h := h
  check _ _ h := h
  agentStep heff h := (congrArg (·.cfg) heff.frame).trans h
  operation _ heff h := (congrArg (·.cfg) heff.frame).trans h

theorem stepKeeps_goodStorage : StepKeeps GoodStorage where
  schedule _ _ _ _ h := { h with }
  reset _ h := h.reset
  check _ _ h := { h with }
  agentStep heff h := h.agentStep heff
  operation _ heff h := h.operation heff

/-- Settles O54: every effect of a step writes inside the sizes the configuration gives, which no effect writes. -/
theorem storageInvariantKept : Obligations.StorageInvariantKept := fun s _ h =>
  ⟨(stepKeeps_cfg s.cfg).step h rfl, fun hs => storageOk_iff.2 (stepKeeps_goodStorage.step h (storageOk_iff.1 hs))⟩

/-! ## The check never fires -/

section
variable {s t : State}

/-- A step that moves the rings as their accesses may leaves them in bounds. -/
theorem ringsInBounds_of_moves (hcfg : t.cfg = s.cfg)
    (hmoves : RingMove s.cfg.capTx s.tx t.tx ∧ RingMove s.cfg.capRx s.rx t.rx) (h : ringsInBounds s = true) :
    ringsInBounds t = true := by
  rw [ringsInBounds_iff] at h ⊢
  rw [hcfg]
  exact ⟨hmoves.1.inBounds h.1, hmoves.2.inBounds h.2⟩

theorem TurnEffect.ringsInBounds {a : Agent} (heff : TurnEffect a s t) (h : ringsInBounds s = true) :
    ringsInBounds t = true := by
  cases heff with
  | pass => exact h
  | agentStep heff => exact ringsInBounds_of_moves (congrArg (·.cfg) heff.frame) heff.ring_moves h
  | operation i rest hi heff =>
    exact ringsInBounds_of_moves (s := { s with inputs := rest }) (congrArg (·.cfg) heff.frame) heff.ring_moves h

/-- The faults a turn raises before the check are those of its operation. -/
theorem TurnEffect.fault_code {a : Agent} (heff : TurnEffect a s t) (hnone : s.fault = none) {f : FaultRecord}
    (hf : t.fault = some f) : f.code = .indexBounds ∨ f.code = .ownership := by
  have hnot : ∀ {o : Option FaultRecord}, o = s.fault → o ≠ some f := by
    rintro o rfl ho
    rw [hnone] at ho
    cases ho
  cases heff with
  | pass => exact absurd hf (hnot rfl)
  | agentStep heff => exact absurd hf (hnot (congrArg (·.fault) heff.frame))
  | operation i rest hi heff =>
    obtain ⟨code, hcode, rfl⟩ | hsame := heff.fault_cases
    · cases hf
      exact hcode
    · exact absurd hf (hnot hsame)

end

/-- Settles O55: from a state in bounds a turn ends in bounds, so the check passes its outcome on, and a fault in it is
the operation's own. -/
theorem invariantFaultIsUnreachable : Obligations.InvariantFaultIsUnreachable := by
  intro s t _ hbounds hnone h f hf
  cases step_effect h with
  | reset ts hts => cases hf
  | idle =>
    rw [hnone] at hf
    cases hf
  | turn a d _ hlisted h =>
    cases h with
    | passed heff =>
      obtain hcode | hcode := heff.fault_code hnone hf <;> rw [hcode] <;> decide
    | invariantFault heff hout w rest =>
      rw [heff.ringsInBounds hbounds] at hout
      cases hout

end Sys2Proof.Machine
end

section
/-! The scanner's invariant (41_matrix_scanner.md R203 to R215): its two states fix the drive, the interrupt and the wake
event, and a waiting scanner is woken by SCAN.WAKE alone. -/

namespace Sys2Proof.Machine

/-! ## The invariant, clause by clause -/

/-- The column a drive names is in the matrix (10_state.md R53). -/
def driveInMatrix (ncol : Nat) (x : ColDrive) : Prop := ∀ c, x = .col c → c < ncol

/-- `scannerOk` as propositions. -/
structure GoodScanner (s : State) : Prop where
  polling : s.scan.state = .polling → s.scan.irqEn = false ∧ s.evKbwake = false
  waiting : s.scan.state = .waitingForInterrupt → s.scan.drive = .assertAll ∧ s.scan.irqEn = !s.evKbwake
  latched : s.scan.irqPending = true → s.scan.irqEn = true
  notLost : s.scan.irqEn = true → s.scan.irqPending = false → sampleRows s = s.scan.rowsAtArm
  col : s.scan.col ≤ s.cfg.ncol
  idle : s.scan.idle ≤ s.cfg.pollIdleLimit
  drive : driveInMatrix s.cfg.ncol s.scan.drive

theorem scannerOk_iff {s : State} : scannerOk s = true ↔ GoodScanner s := by
  have hor : ∀ a b : Bool, (a || b) = true ↔ (a = false → b = true) := by decide
  simp only [scannerOk, Bool.and_eq_true, hor, decide_eq_true_eq, bne_eq_false_iff_eq, Bool.not_eq_false',
    Bool.not_eq_true', Bool.or_eq_false_iff, beq_iff_eq]
  constructor
  · rintro ⟨⟨⟨⟨⟨⟨hpolling, hwaiting⟩, hlatched⟩, hnotLost⟩, hcol⟩, hidle⟩, hdrive⟩
    refine ⟨hpolling, hwaiting, hlatched, fun hen hpend => hnotLost ⟨hen, hpend⟩, hcol, hidle, fun c hc => ?_⟩
    rw [hc] at hdrive
    exact of_decide_eq_true hdrive
  · rintro ⟨hpolling, hwaiting, hlatched, hnotLost, hcol, hidle, hdrive⟩
    refine ⟨⟨⟨⟨⟨⟨hpolling, hwaiting⟩, hlatched⟩, fun h => hnotLost h.1 h.2⟩, hcol⟩, hidle⟩, ?_⟩
    cases hx : s.scan.drive with
    | col c => exact decide_eq_true (hdrive c hx)
    | assertAll | tristateAll => rfl

section
variable {s t : State}

/-- The rows read the configuration, the drive and the key matrix. -/
theorem sampleRows_congr (hcfg : t.cfg = s.cfg) (hdrive : t.scan.drive = s.scan.drive) (hkeys : t.keys = s.keys) :
    sampleRows t = sampleRows s := by
  rw [sampleRows, sampleRows, hcfg, hdrive, hkeys]

theorem GoodScanner.congr (h : GoodScanner s) (hcfg : t.cfg = s.cfg) (hscan : t.scan = s.scan)
    (hev : t.evKbwake = s.evKbwake) (hkeys : t.keys = s.keys) : GoodScanner t := by
  have hrows : sampleRows t = sampleRows s := sampleRows_congr hcfg (by rw [hscan]) hkeys
  obtain ⟨h1, h2, h3, h4, h5, h6, h7⟩ := h
  constructor <;> simpa only [hcfg, hscan, hev, hrows]

/-- While the interrupt is off nothing is latched and no row change can be lost. -/
theorem goodScanner_of_irq_off (hen : s.scan.irqEn = false) (hpend : s.scan.irqPending = false)
    (hpolling : s.scan.state = .polling → s.evKbwake = false)
    (hwaiting : s.scan.state = .waitingForInterrupt → s.scan.drive = .assertAll ∧ s.evKbwake = true)
    (hcol : s.scan.col ≤ s.cfg.ncol) (hidle : s.scan.idle ≤ s.cfg.pollIdleLimit)
    (hdrive : driveInMatrix s.cfg.ncol s.scan.drive) : GoodScanner s where
  polling hstate := ⟨hen, hpolling hstate⟩
  waiting hstate := ⟨(hwaiting hstate).1, by rw [hen, (hwaiting hstate).2]; rfl⟩
  latched h := absurd h (by rw [hpend]; decide)
  notLost h _ := absurd h (by rw [hen]; decide)
  col := hcol
  idle := hidle
  drive := hdrive

/-- Nothing is latched while the interrupt is off. -/
theorem GoodScanner.irqPending_eq_false (h : GoodScanner s) (hen : s.scan.irqEn = false) : s.scan.irqPending = false := by
  cases hpend : s.scan.irqPending with
  | false => rfl
  | true => exact absurd (h.latched hpend) (by rw [hen]; decide)

theorem driveInMatrix_tristateAll (n : Nat) : driveInMatrix n .tristateAll := nofun

theorem driveInMatrix_assertAll (n : Nat) : driveInMatrix n .assertAll := nofun

theorem driveInMatrix_col {n c : Nat} (h : c < n) : driveInMatrix n (.col c) := by
  rintro _ ⟨⟩
  exact h

/-! ## The steps that write the scanner -/

/-- A polling scanner may move to any column in range: the interrupt is off, as it always is while polling. -/
theorem GoodScanner.keepPolling (h : GoodScanner s) (hstate : s.scan.state = .polling) {col idle : Nat} {prev : Mem}
    {x : ColDrive} (hcol : col ≤ s.cfg.ncol) (hidle : idle ≤ s.cfg.pollIdleLimit) (hdrive : driveInMatrix s.cfg.ncol x) :
    GoodScanner { s with scan := { s.scan with prev := prev, col := col, idle := idle, drive := x } } := by
  obtain ⟨hen, hev⟩ := h.polling hstate
  refine goodScanner_of_irq_off hen (h.irqPending_eq_false hen) (fun _ => hev) (fun hwait => ?_) hcol hidle hdrive
  cases hstate.symm.trans hwait

theorem GoodScanner.keySet (h : GoodScanner s) (row : Fin 8) (col : Nat) (v : Bool) :
    GoodScanner (latchRowChange (setKey row col v s)) := by
  obtain ⟨⟨hen, hrows⟩, hlatch⟩ | ⟨hno, hlatch⟩ := latchRowChange_cases (setKey row col v s)
  · rw [hlatch]
    exact { h with
      latched := fun _ => hen
      notLost := fun _ hpend => by cases hpend }
  · rw [hlatch]
    exact { h with notLost := fun hen _ => Classical.byContradiction fun hrows => hno ⟨hen, hrows⟩ }

theorem GoodScanner.isrRow (h : GoodScanner s) (hen : s.scan.irqEn = true) : GoodScanner (isrRow s) := by
  have hstate : s.scan.state ≠ .polling := fun hstate => by
    rw [(h.polling hstate).1] at hen
    cases hen
  exact goodScanner_of_irq_off rfl rfl (fun hp => absurd hp hstate) (fun hw => ⟨(h.waiting hw).1, rfl⟩) h.col h.idle h.drive

theorem GoodScanner.scanWake (h : GoodScanner s) (hstate : s.scan.state = .waitingForInterrupt)
    (hev : s.evKbwake = true) : GoodScanner (scanWake s) := by
  have hen : s.scan.irqEn = false := by rw [(h.waiting hstate).2, hev]; rfl
  exact goodScanner_of_irq_off hen (h.irqPending_eq_false hen) (fun _ => rfl) nofun (Nat.zero_le _) (Nat.zero_le _)
    (driveInMatrix_tristateAll _)

theorem GoodScanner.scanCol (h : GoodScanner s) (hstate : s.scan.state = .polling) (hcol : s.scan.col < s.cfg.ncol) :
    GoodScanner (scanCol s) := by
  rw [scanCol_eq rfl rfl]
  exact (h.keepPolling hstate hcol h.idle (driveInMatrix_col hcol)).congr rfl rfl rfl rfl

theorem GoodScanner.scanEnd (h : GoodScanner s) (hstate : s.scan.state = .polling) : GoodScanner (scanEnd s) := by
  obtain ⟨hen, hev⟩ := h.polling hstate
  rcases Nat.lt_or_ge (idlePasses s) s.cfg.pollIdleLimit with hbelow | hlimit
  · rw [scanEnd_below_limit hbelow]
    exact h.keepPolling hstate (Nat.zero_le _) (Nat.le_of_lt hbelow) (driveInMatrix_tristateAll _)
  · rw [scanEnd_at_limit hlimit, arm, repollAfterArm_eq]
    split
    · exact goodScanner_of_irq_off rfl rfl (fun _ => hev) nofun (Nat.zero_le _) (Nat.zero_le _)
        (driveInMatrix_tristateAll _)
    · exact
        { polling := nofun
          waiting := fun _ => ⟨rfl, (congrArg (!·) hev).symm⟩
          latched := fun _ => rfl
          notLost := fun _ _ => rfl
          col := Nat.zero_le _
          idle := Nat.zero_le _
          drive := driveInMatrix_assertAll _ }

end

/-! ## Every step -/

theorem goodScanner_initial (c : Params) (keys : Mem) : GoodScanner (State.initial c keys) :=
  goodScanner_of_irq_off rfl rfl (fun _ => rfl) nofun (Nat.zero_le _) (Nat.zero_le _) (driveInMatrix_tristateAll _)

section
variable {s t : State}

theorem GoodScanner.operation (h : GoodScanner s) {i : Instr} (heff : ExecEffect i s t) : GoodScanner t := by
  obtain ⟨hscan, hkeys⟩ | ⟨row, col, v, -, rfl⟩ := heff.key_cases
  · exact h.congr (congrArg (·.cfg) heff.frame) hscan (congrArg (·.evKbwake) heff.frame) hkeys
  · exact (h.keySet row col.toNat v).congr rfl rfl rfl rfl

theorem GoodScanner.agentStep (h : GoodScanner s) {a : Agent} (heff : AgentEffect a s t) : GoodScanner t := by
  cases heff with
  | receive | transmit | lineFeed => exact h.congr rfl rfl rfl rfl
  | wait timeout hlf =>
    rw [waitOn_frame]
    exact h.congr rfl rfl rfl rfl
  | row hen => exact h.isrRow hen
  | wake ha hstate hev => exact h.scanWake hstate hev
  | column hstate hcol => exact h.scanCol hstate hcol
  | passEnd hstate => exact h.scanEnd hstate

end

theorem stepKeeps_goodScanner : StepKeeps GoodScanner where
  schedule _ _ _ _ h := h.congr rfl rfl rfl rfl
  reset s _ := (goodScanner_initial s.cfg s.keys).congr rfl rfl rfl rfl
  check _ _ h := h.congr rfl rfl rfl rfl
  agentStep heff h := h.agentStep heff
  operation _ heff h := h.operation heff

/-! ## `prev` holds valid keys only (R207, R214) -/

/-- A write keeps a property of every listed pair that the new pair has. -/
theorem all_memWrite {p : Host.Cell → Bool} {a : Nat} {b : Byte} {m : Mem} (hb : p (a, b) = true) (hm : m.all p = true) :
    (memWrite a b m).all p = true := by
  rw [List.all_eq_true] at hm ⊢
  intro c hc
  unfold memWrite at hc
  split at hc
  · exact hm c (mem_memErase hc)
  · obtain rfl | hc := mem_memInsert hc
    · exact hb
    · exact hm c hc

/-- A row byte has no bit outside its column's mask. -/
theorem columnState_masked (c : Nat) (s : State) : columnState c s &&& ~~~(validMaskAt s.cfg c) = 0 := by
  rw [columnState, BitVec.and_assoc, BitVec.and_not_self]
  exact BitVec.and_zero

theorem prevMasked_congr {s t : State} (hcfg : t.cfg = s.cfg) (hprev : t.scan.prev = s.scan.prev) :
    prevMasked t = prevMasked s := by
  rw [prevMasked, prevMasked, hcfg, hprev]

theorem prevMasked_agentStep {a : Agent} {s t : State} (heff : AgentEffect a s t) (h : prevMasked s = true) :
    prevMasked t = true := by
  have hcfg : t.cfg = s.cfg := congrArg (·.cfg) heff.frame
  obtain hprev | ⟨-, hprev⟩ := heff.prev_cases
  · rwa [prevMasked_congr hcfg hprev]
  · rw [prevMasked, hprev, hcfg]
    exact all_memWrite (beq_iff_eq.2 (columnState_masked s.scan.col s)) h

theorem stepKeeps_prevMasked : StepKeeps fun s => prevMasked s = true where
  schedule _ _ _ _ h := h
  reset _ _ := rfl
  check _ _ h := h
  agentStep := prevMasked_agentStep
  operation _ heff h :=
    (prevMasked_congr (congrArg (·.cfg) heff.frame) (congrArg (·.scan.prev) heff.frame)).trans h

/-- Settles O56: the scanner's own steps and ISR_ROW keep its clauses state by state, KEY_SET latches what would break
them, and nothing else writes what they read; a stored row byte is masked. -/
theorem scannerInvariantKept : Obligations.ScannerInvariantKept := fun _ _ hs h =>
  ⟨scannerOk_iff.2 (stepKeeps_goodScanner.step h (scannerOk_iff.1 hs)), stepKeeps_prevMasked.step h⟩

/-! ## Waiting (R212, R213) -/

section
variable {s t : State}

/-- A turn ends waiting by SCAN.WAKE alone. -/
theorem TurnEffect.waiting {a : Agent} (heff : TurnEffect a s t) (hwait : s.scan.state = .waitingForInterrupt) :
    t.scan.state = .waitingForInterrupt ∨ (a = .scan ∧ s.evKbwake = true ∧ t = scanWake s) := by
  cases heff with
  | pass => exact .inl hwait
  | operation i rest hi heff => exact .inl ((congrArg (·.scan.state) heff.frame).trans hwait)
  | agentStep heff =>
    cases heff with
    | receive x n hmove => exact .inl hwait
    | transmit x d p wire hmove => exact .inl hwait
    | lineFeed x v hmove => exact .inl hwait
    | wait timeout hlf =>
      rw [waitOn_frame]
      exact .inl hwait
    | row hen => exact .inl hwait
    | wake ha hstate hev => exact .inr ⟨ha, hev, rfl⟩
    | column hstate hcol => cases hstate.symm.trans hwait
    | passEnd hstate => cases hstate.symm.trans hwait

end

/-- Settles O52: the turn's effect is the one that ends waiting, or the check has put the fault in its place. -/
theorem waitingEndsOnlyByWake : Obligations.WaitingEndsOnlyByWake := by
  intro s t h hwait hreset
  cases step_effect h with
  | reset ts hts =>
    rw [hts] at hreset
    exact absurd rfl hreset
  | idle => exact .inl hwait
  | turn a d hf hlisted h =>
    cases h with
    | invariantFault heff hbounds w rest => exact .inl hwait
    | passed heff =>
      obtain hstay | ⟨rfl, hev, rfl⟩ := heff.waiting hwait
      · exact .inl hstay
      · exact .inr ⟨hev, hlisted, d, rfl⟩

end Sys2Proof.Machine
end

section
/-! The translator's signals and TASK (10_state.md R37, R50, R68, 45_control.md R372): a control event is appended where its
enable changes and nowhere else, a cached response fits its buffer, and TASK has one transaction at a time. -/

namespace Sys2Proof.Machine

/-! ## Events that follow a level (10_state.md R68) -/

/-- The values `l` alternate from the level `before` and end at the level `after`. -/
def Follows (before after : Bool) (l : List Bool) : Prop := alternatesFrom before l = true ∧ lastFrom before l = after

theorem follows_nil (b : Bool) : Follows b b [] := ⟨rfl, rfl⟩

/-- One event, sent only on a change. -/
theorem follows_change (before after : Bool) : Follows before after (if before = after then [] else [after]) := by
  cases before <;> cases after <;> exact ⟨rfl, rfl⟩

theorem follows_append {before mid after : Bool} {l m : List Bool} (hl : Follows before mid l)
    (hm : Follows mid after m) : Follows before after (l ++ m) := by
  induction l generalizing before with
  | nil =>
    obtain ⟨-, rfl⟩ := hl
    exact hm
  | cons x xs ih =>
    obtain ⟨halt, hlast⟩ := hl
    obtain ⟨hx, hxs⟩ := Bool.and_eq_true_iff.1 halt
    obtain ⟨halt', hlast'⟩ := ih ⟨hxs, hlast⟩
    exact ⟨Bool.and_eq_true_iff.2 ⟨hx, halt'⟩, hlast'⟩

theorem kbSignals_append (l m : List CtlEvent) : kbSignals (l ++ m) = kbSignals l ++ kbSignals m :=
  List.filterMap_append

theorem irqSignals_append (l m : List CtlEvent) : irqSignals (l ++ m) = irqSignals l ++ irqSignals m :=
  List.filterMap_append

/-- The events `m` take the enables of `k` to those of `k'`. -/
structure Signals (k k' : Kbc) (m : List CtlEvent) : Prop where
  kb : Follows k.enabled k'.enabled (kbSignals m)
  irq : Follows (kbdIrqEn k) (kbdIrqEn k') (irqSignals m)

/-- No event where no enable changes. -/
theorem signals_nil {k k' : Kbc} (henabled : k'.enabled = k.enabled) (hirq : kbdIrqEn k' = kbdIrqEn k) :
    Signals k k' [] := by
  constructor
  · rw [henabled]
    exact follows_nil _
  · rw [hirq]
    exact follows_nil _

/-- Where `s` has signalled its enables, a state with the events of a change appended has signalled its own. -/
theorem signalsOk_append {s t : State} {m : List CtlEvent} (hctl : t.out.ctl = s.out.ctl ++ m)
    (hm : Signals s.kbc t.kbc m) (h : signalsOk s = true) : signalsOk t = true := by
  simp only [signalsOk, Bool.and_eq_true, beq_iff_eq] at h ⊢
  obtain ⟨⟨⟨hkbAlt, hkbLast⟩, hirqAlt⟩, hirqLast⟩ := h
  rw [hctl, kbSignals_append, irqSignals_append]
  obtain ⟨hkbAlt', hkbLast'⟩ := follows_append ⟨hkbAlt, hkbLast⟩ hm.kb
  obtain ⟨hirqAlt', hirqLast'⟩ := follows_append ⟨hirqAlt, hirqLast⟩ hm.irq
  exact ⟨⟨⟨hkbAlt', hkbLast'⟩, hirqAlt'⟩, hirqLast'⟩

/-! ## The writes of a host byte -/

section
variable {i : Instr} {s t u : State}

theorem setKbEnabled_signals (v : Bool) (s : State) :
    ∃ m, (setKbEnabled v s).out.ctl = s.out.ctl ++ m ∧ Signals s.kbc (setKbEnabled v s).kbc m := by
  rw [setKbEnabled_eq]
  refine ⟨_, rfl, ?kb, ?irq⟩
  case kb =>
    have hkb : kbSignals (if s.kbc.enabled = v then [] else [.kbEnable v]) = if s.kbc.enabled = v then [] else [v] := by
      split <;> rfl
    rw [hkb]
    exact follows_change _ _
  case irq =>
    have hirq : irqSignals (if s.kbc.enabled = v then [] else [.kbEnable v]) = [] := by split <;> rfl
    rw [hirq]
    exact follows_nil _

theorem kbSignals_commandByteEvents (old v : Byte) (k : Kbc) :
    kbSignals (commandByteEvents old v k) =
      if k.enabled = enabledAfter old v k then [] else [enabledAfter old v k] := by
  simp only [commandByteEvents, kbSignals_append]
  split_ifs <;> rfl

theorem irqSignals_commandByteEvents (old v : Byte) (k : Kbc) :
    irqSignals (commandByteEvents old v k) = if cmdEnIrq1 old = cmdEnIrq1 v then [] else [cmdEnIrq1 v] := by
  have hkb : irqSignals (if k.enabled = enabledAfter old v k then [] else [.kbEnable (enabledAfter old v k)]) = [] := by
    split <;> rfl
  simp only [commandByteEvents, irqSignals_append, hkb]
  cases cmdEnIrq1 old <;> cases cmdEnIrq1 v <;> rfl

/-- A write of byte 0 sends each event where its own level changes (43_i8042_command_port.md R305); a write of another
byte changes no level. -/
theorem writeRam_signals (a : BitVec 5) (v : Byte) (s : State) :
    ∃ m, (writeRam a v s).out.ctl = s.out.ctl ++ m ∧ Signals s.kbc (writeRam a v s).kbc m := by
  by_cases ha : a = 0
  · subst ha
    rw [writeRam_zero]
    refine ⟨_, rfl, ?kb, ?irq⟩
    case kb =>
      rw [kbSignals_commandByteEvents]
      exact follows_change _ _
    case irq =>
      have hnew : commandByte { s.kbc with
          ram := memWrite 0 v s.kbc.ram, enabled := enabledAfter (commandByte s.kbc) v s.kbc } = v :=
        (memRead_memWrite 0 0 v s.kbc.ram).trans (if_pos rfl)
      rw [irqSignals_commandByteEvents, kbdIrqEn, kbdIrqEn, hnew]
      exact follows_change _ _
  · rw [writeRam_of_ne_zero ha]
    have hne : 0 ≠ a.toNat := fun h => ha (BitVec.eq_of_toNat_eq h.symm)
    have hread : commandByte { s.kbc with ram := memWrite a.toNat v s.kbc.ram } = commandByte s.kbc :=
      (memRead_memWrite a.toNat 0 v s.kbc.ram).trans (if_neg hne)
    exact ⟨[], (List.append_nil _).symm, signals_nil rfl (by rw [kbdIrqEn, hread, kbdIrqEn])⟩

theorem HostWrite.signals (h : HostWrite i s u) : ∃ m, u.out.ctl = s.out.ctl ++ m ∧ Signals s.kbc u.kbc m := by
  cases h with
  | keep | codeSet | ramAddr | auxChannel | auxOut => exact ⟨[], (List.append_nil _).symm, signals_nil rfl rfl⟩
  | enable v => exact setKbEnabled_signals v s
  | ram a v => exact writeRam_signals a v s

/-- Responding sends no control event and changes no enable. -/
theorem HostEffect.signalsOk (h : HostEffect i s t) (hs : signalsOk s = true) : signalsOk t = true := by
  obtain @⟨u, hwrite, resp, cached, d, -⟩ := h
  obtain ⟨m, hctl, hm⟩ := hwrite.signals
  obtain ⟨len, buf, hkbc, -⟩ := respondData_kbc resp cached d u
  refine signalsOk_append (m := m) ?_ ?_ hs
  · rw [respondData_eq]
    exact hctl
  · rw [hkbc]
    exact ⟨hm.kb, hm.irq⟩

theorem HostWrite.resendLen_eq (h : HostWrite i s u) : u.kbc.resendLen = s.kbc.resendLen := by
  cases h with
  | keep | codeSet | ramAddr | auxChannel | auxOut => rfl
  | enable v => rw [setKbEnabled_eq]
  | ram a v =>
    obtain ⟨on, hram⟩ := writeRam_kbc a v s
    rw [hram]

theorem HostEffect.resendLen_le (h : HostEffect i s t) (hs : s.kbc.resendLen ≤ 3) : t.kbc.resendLen ≤ 3 := by
  obtain @⟨u, hwrite, resp, cached, d, hfits⟩ := h
  obtain ⟨len, buf, hkbc, rfl | ⟨hcached, rfl⟩⟩ := respondData_kbc resp cached d u
  · rw [hkbc]
    exact hwrite.resendLen_eq ▸ hs
  · rw [hkbc]
    exact hfits hcached

end

/-! ## TASK -/

section
variable {i : Instr} {s t : State}

theorem taskOk_iff : taskOk s = true ↔ (s.front.lfPending = true → s.wait = none) := by
  rw [taskOk]
  cases s.front.lfPending <;> simp

/-- TASK has nothing due only with no line feed pending, and does not hold only with no wait. -/
theorem MayIssue.task_idle (h : MayIssue i s) (hi : issuerOf (encode i) = .task) :
    s.front.lfPending = false ∧ s.wait = none := by
  obtain ⟨hdue, hholds⟩ := h
  rw [hi] at hdue hholds
  refine ⟨?_, by simpa [Machine.holds] using hholds⟩
  cases hlf : s.front.lfPending with
  | false => rfl
  | true => simp [agentStepOf, hlf] at hdue

/-- Only TASK's own transactions begin a line feed or a wait, each one of the two. -/
theorem ExecEffect.task_cases (h : ExecEffect i s t) :
    (t.front.lfPending = s.front.lfPending ∧ t.wait = s.wait) ∨
      (issuerOf (encode i) = .task ∧ (t.wait = s.wait ∨ t.front = s.front)) := by
  cases h with
  | ring r h =>
    cases h with
    | faults code hcode => exact .inl ⟨rfl, rfl⟩
    | moves x d v hmove howner => exact .inl ⟨congrArg (·.lfPending) (setRing_front ..), setRing_wait ..⟩
  | lineFeed x ok hmove htail hi => exact .inr ⟨hi, .inl rfl⟩
  | mode | maskRx | maskTx | port => exact .inl ⟨rfl, rfl⟩
  | wait timeout hi => exact .inr ⟨hi, .inr (by rw [waitOn_frame])⟩
  | key row col v hi hcol =>
    rw [latchRowChange_setKey_frame]
    exact .inl ⟨rfl, rfl⟩
  | event row col p v =>
    rw [translate_state]
    exact .inl ⟨rfl, rfl⟩
  | host hj h =>
    rw [h.frame]
    exact .inl ⟨rfl, rfl⟩

theorem taskOk_operation (hi : MayIssue i s) (heff : ExecEffect i s t) (h : taskOk s = true) : taskOk t = true := by
  rw [taskOk_iff] at h ⊢
  obtain ⟨hlf, hwait⟩ | ⟨htask, hone⟩ := heff.task_cases
  · rwa [hlf, hwait]
  · obtain ⟨hlf, hwait⟩ := hi.task_idle htask
    obtain hone | hone := hone
    · exact fun _ => hone.trans hwait
    · rw [hone, hlf]
      exact nofun

theorem taskOk_agentStep {a : Agent} (heff : AgentEffect a s t) (h : taskOk s = true) : taskOk t = true := by
  cases heff with
  | receive | transmit | row | wake => exact h
  | lineFeed x v hmove => rfl
  | wait timeout hlf =>
    rw [taskOk_iff, waitOn_frame, hlf]
    exact nofun
  | column hstate hcol =>
    rw [scanCol_eq rfl rfl]
    exact h
  | passEnd hstate =>
    rw [scanEnd_frame]
    exact h

end

/-! ## Every step -/

theorem signalsOk_congr {s t : State} (hkbc : t.kbc = s.kbc) (hctl : t.out.ctl = s.out.ctl) :
    signalsOk t = signalsOk s := by
  rw [signalsOk, signalsOk, hkbc, hctl]

theorem resendOk_iff {s : State} : resendOk s = true ↔ s.kbc.resendLen ≤ 3 := decide_eq_true_iff

/-- No event has been sent at reset, where both enables are off. -/
theorem signalsOk_initial (c : Params) (keys : Mem) : signalsOk (State.initial c keys) = true :=
  (signalsOk_congr (s := State.reset) rfl rfl).trans (by decide)

theorem stepKeeps_signalsOk : StepKeeps fun s => signalsOk s = true where
  schedule _ _ _ _ h := h
  reset s _ := signalsOk_initial s.cfg s.keys
  check _ _ h := h
  agentStep heff h :=
    (signalsOk_congr (congrArg (·.kbc) heff.frame) (congrArg (·.out.ctl) heff.frame)).trans h
  operation _ heff h := by
    obtain ⟨hkbc, hctl⟩ | ⟨j, hhost⟩ := heff.host_cases
    · exact (signalsOk_congr hkbc hctl).trans h
    · exact hhost.signalsOk h

theorem stepKeeps_resendOk : StepKeeps fun s => resendOk s = true where
  schedule _ _ _ _ h := h
  reset _ _ := rfl
  check _ _ h := h
  agentStep heff h := by
    rw [resendOk_iff] at h ⊢
    exact (congrArg (·.kbc.resendLen) heff.frame).trans_le h
  operation _ heff h := by
    rw [resendOk_iff] at h ⊢
    obtain ⟨hkbc, -⟩ | ⟨j, hhost⟩ := heff.host_cases
    · exact hkbc ▸ h
    · exact hhost.resendLen_le h

theorem stepKeeps_taskOk : StepKeeps fun s => taskOk s = true where
  schedule _ _ _ _ h := h
  reset _ _ := rfl
  check _ _ h := h
  agentStep := taskOk_agentStep
  operation := taskOk_operation

/-- Settles O57: the three are step invariants; host bytes alone send events and cache, and TASK alone begins a line feed
or a wait, when it has neither. -/
theorem signalsFollowTheEnables : Obligations.SignalsFollowTheEnables := fun _ _ h =>
  ⟨stepKeeps_signalsOk.step h, stepKeeps_resendOk.step h, stepKeeps_taskOk.step h⟩

/-- Settles O58: the storage and the scanner begin good, and with no event sent and nothing cached or in progress the
other invariants hold of every configuration and key matrix. -/
theorem resetStateIsGood : Obligations.ResetStateIsGood := fun c keys hc hkeys =>
  ⟨storageOk_iff.2 (goodStorage_initial hc hkeys), scannerOk_iff.2 (goodScanner_initial c keys), rfl, signalsOk_initial c keys, rfl, rfl⟩

end Sys2Proof.Machine
end

section
/-! The step at a listed turn (00_scope.md R24, 45_control.md R372, 60_exceptions.md R400, R404, R432): an operation runs, a
due step is taken, an agent with neither passes, and a fault halts all but a reset. -/

namespace Sys2Proof.Machine

/-! ## A transaction issued -/

section
variable {s : State} {w : Word}

theorem transact_of_ok {i : Instr} (h : decodeWord w = .ok i) : transact w s = checkInvariant w s (exec i s) := by
  rw [transact, h]

theorem transact_of_error {e : DecodeError} (h : decodeWord w = .error e) : transact w s = .refused (.notAnOperation e) := by
  rw [transact, h]

/-- At its turn an agent with nothing due that does not hold issues its next transaction. -/
theorem step_issue {a : Agent} {ts : List Turn} {rest : List Word} (hts : s.turns = .agent a :: ts) (hf : s.fault = none)
    (hdue : agentStepOf a s = none) (hholds : holds a s = false) (hinput : nextInput a s.inputs = some (w, rest)) :
    step s = transact w { s with turns := ts, inputs := rest } :=
  (step_agent hts hf).trans (takeTurn_issue (s := { s with turns := ts }) hdue hholds hinput)

end

/-- Settles O6: the turn is the agent's, and what it issues is decoded and runs under the check. -/
theorem stepRunsTheDecodedTransaction : Obligations.StepRunsTheDecodedTransaction := by
  intro s a ts w rest i hts hf hdue hholds hinput hdecode
  rw [step_issue hts hf hdue hholds hinput, transact_of_ok hdecode]

/-- Settles O7: the turn is the agent's, and a due step comes before any transaction. -/
theorem stepRunsTheAgentsStep : Obligations.StepRunsTheAgentsStep := by
  intro s a ts st hts hf hdue
  rw [step_agent hts hf, takeTurn_due (by simpa using hdue)]

/-- Settles O9: a word that does not decode is refused before the state is touched, a column by the operation's own
check. -/
theorem wordsThatSpellNothingAreRefused : Obligations.WordsThatSpellNothingAreRefused := by
  refine ⟨fun s a ts w rest e hts hf hdue hholds hinput hdecode => ?word, fun s row col v hcol => ?column⟩
  case word =>
    rw [step_issue hts hf hdue hholds hinput, transact_of_error hdecode]
  case column =>
    have hout : ¬ colInMatrix s.cfg col = true := by
      rw [colInMatrix, decide_eq_true_iff]
      omega
    exact ⟨if_neg hout, if_neg hout⟩

/-! ## A word presented (log 21) -/

section
variable {s : State} {a : Agent}

/-- TASK has nothing due with no line feed pending and no wait; HOST, ENV and the harness never have. -/
theorem agentStepOf_issuer (hlf : s.front.lfPending = false) (hwait : s.wait = none) (w : Word) :
    agentStepOf (issuerOf w) s = none := by
  obtain h | h | h | h := issuerOf_cases w <;> rw [h]
  · simp [agentStepOf, hlf, hwait]
  · rfl
  · rfl
  · rfl

theorem holds_of_no_wait (hwait : s.wait = none) : holds a s = false := by simp [holds, hwait]

theorem nextInput_head (w : Word) (ws : List Word) : nextInput (issuerOf w) (w :: ws) = some (w, ws) := if_pos rfl

/-- A word presented to a block with no fault and no transaction in progress is issued at once. -/
theorem step_present (w : Word) (hf : s.fault = none) (hlf : s.front.lfPending = false) (hwait : s.wait = none) :
    step (present w s) = transact w s := by
  exact step_issue (s := present w s) rfl hf (agentStepOf_issuer hlf hwait w) (holds_of_no_wait hwait)
    (nextInput_head w s.inputs)

/-- The word that presents a table word decodes to what runs as the row's instruction in NORMAL. -/
theorem tableTransaction_decodes {nbits w : Nat} {i : Instr} (hd : s.kbc.dstate = .normal)
    (h : decodeTableWord nbits w = some i) :
    ∃ j, decodeWord (tableTransaction nbits w) = .ok j ∧ exec j s = exec i s := by
  unfold decodeTableWord at h
  unfold tableTransaction
  split at h
  next hbits =>
    rw [if_pos hbits]
    split at h
    next hcmd =>
      cases h
      rw [if_pos hcmd]
      exact ⟨_, decodeWord_cmdWord _, exec_cmd _ s⟩
    next hdata =>
      cases h
      rw [if_neg hdata]
      exact ⟨_, decodeWord_dataWord _, hd ▸ exec_data _ s⟩
  next hbits =>
    rw [if_neg hbits]
    split at h
    next hdecode => exact ⟨i, Option.some.inj h ▸ hdecode, rfl⟩
    next => cases h

end

/-- Settles O8: the presented word is issued at once, and its instruction runs as the row's does. -/
theorem presentedTableWordRuns : Obligations.PresentedTableWordRuns := by
  intro s nbits w i _ hf hlf hwait hd hdecode
  obtain ⟨j, hj, hexec⟩ := tableTransaction_decodes hd hdecode
  rw [State.withFetchWord, step_present _ hf hlf hwait, transact_of_ok hj, hexec]

/-! ## Agents that pass or wait (R372, log 3) -/

section
variable {s : State} {ts : List Turn}

/-- An interrupt engine with nothing due only uses up its turn, since it issues nothing. -/
theorem step_idle_engine {a : Agent} (hts : s.turns = .agent a :: ts) (hf : s.fault = none)
    (hdue : agentStepOf a s = none) (hissuer : ∀ w, issuerOf w ≠ a) : step s = .next { s with turns := ts } := by
  rw [step_agent hts hf]
  exact takeTurn_idle hdue (nextInput_none hissuer s.inputs)

theorem issuerOf_ne_isrRx (w : Word) : issuerOf w ≠ .isrRx := by
  obtain h | h | h | h := issuerOf_cases w <;> rw [h] <;> decide

theorem issuerOf_ne_isrTx (w : Word) : issuerOf w ≠ .isrTx := by
  obtain h | h | h | h := issuerOf_cases w <;> rw [h] <;> decide

/-- What is due to TASK while it waits: the retry, once an event is posted or while a timeout is open. -/
theorem agentStepOf_task_waiting {timeout : Bool} (hlf : s.front.lfPending = false) (hwait : s.wait = some timeout) :
    agentStepOf .task s = if s.evInput || timeout then some .taskWait else none := by
  simp [agentStepOf, hlf, hwait]

/-- The retry of a wait passes the check where the rings are in bounds. -/
theorem step_taskWait {timeout : Bool} (hts : s.turns = .agent .task :: ts) (hf : s.fault = none)
    (hlf : s.front.lfPending = false) (hwait : s.wait = some timeout) (hretry : (s.evInput || timeout) = true)
    (hbounds : ringsInBounds s = true) : step s = .next (waitOn timeout { s with turns := ts }) := by
  have hdue : agentStepOf .task { s with turns := ts } = some .taskWait := by
    rw [agentStepOf_turns, agentStepOf_task_waiting hlf hwait, if_pos hretry]
  have hrun : runAgentStep .taskWait { s with turns := ts } = waitOn timeout { s with turns := ts } := by
    rw [runAgentStep, hwait]
    rfl
  rw [step_agent hts hf, takeTurn_due hdue, hrun]
  refine checkInvariant_next ?_
  rw [waitOn_frame]
  exact hbounds

end

/-- Settles O29: with nothing due an agent passes, and the retry of a wait ends as `waitOn` does. -/
theorem heldAndMaskedAgentsPass : Obligations.HeldAndMaskedAgentsPass := by
  intro s ts hf
  refine ⟨fun hts hlf hwait hev => ?held, fun hts hmask => ?rx, fun hts hmask => ?tx,
    fun hts hlf hwait hev hbounds => ?timed, fun timeout hts hlf hwait hev hbounds => ?event⟩
  case held =>
    have hdue : agentStepOf .task s = none := by rw [agentStepOf_task_waiting hlf hwait, hev]; rfl
    rw [step_agent hts hf]
    exact takeTurn_holding hdue (by simp [holds, hwait])
  case rx => exact step_idle_engine hts hf (by simp [agentStepOf, hmask]) issuerOf_ne_isrRx
  case tx => exact step_idle_engine hts hf (by simp [agentStepOf, hmask]) issuerOf_ne_isrTx
  case timed =>
    rw [step_taskWait hts hf hlf hwait (by rw [hev]; rfl) hbounds]
    obtain ⟨hposted, -⟩ | ⟨-, hno, -⟩ | ⟨-, -, h | h⟩ := waitOn_cases true { s with turns := ts }
    · cases hev.symm.trans hposted
    · cases hno
    · exact .inl (congrArg Host.Outcome.next h)
    · exact .inr (congrArg Host.Outcome.next h)
  case event =>
    rw [step_taskWait hts hf hlf hwait (by rw [hev]; rfl) hbounds]
    exact congrArg Host.Outcome.next (if_pos hev)

/-! ## Faults and reset (60_exceptions.md R400, 70_reset_and_hazards.md R450) -/

section
variable {s : State}

theorem step_faulted {f : FaultRecord} (hf : s.fault = some f) (hts : s.turns.head? ≠ some .reset) :
    step s = .fault (.halted f) := by
  unfold step nextTurn
  split
  next h =>
    rw [h] at hts
    exact absurd rfl hts
  next => rw [hf]
  next => rw [hf]

theorem step_reset {ts : List Turn} (hts : s.turns = .reset :: ts) :
    step s = .next (resetBlock { s with turns := ts }) := by
  rw [step, nextTurn, hts]

end

/-- The RAM at reset: the command byte, and zeros. -/
theorem memRead_reset_ram (a : Nat) : memRead a [(0, 0x70)] = if a = 0 then 0x70 else 0 := by
  by_cases h : a = 0
  · subst h
    rfl
  · simp [memRead, memFind, h, Ne.symm h, unlistedByte]

/-- Settles O59: a fault halts every turn but a reset, and the reset state is the table's, read off register by
register. -/
theorem onlyResetLeavesAFault : Obligations.OnlyResetLeavesAFault := by
  refine ⟨fun s f hf hts => step_faulted hf hts, fun s ts hts => ⟨_, step_reset hts, ?_⟩⟩
  exact ⟨rfl, rfl, rfl, rfl, rfl, rfl, rfl, rfl, rfl, rfl, rfl, rfl, memRead_reset_ram, rfl, rfl, rfl, rfl, rfl,
    memRead_nil, rfl, rfl, rfl, rfl, rfl, rfl, rfl, rfl, rfl, rfl, rfl⟩

/-! ## The end of a run (R432) -/

section
variable {s : State}

theorem agentStepOf_task_eq_none_iff :
    agentStepOf .task s = none ↔ s.front.lfPending = false ∧ taskHeldOrIdle s = true := by
  cases hlf : s.front.lfPending with
  | true => simp [agentStepOf, hlf]
  | false =>
    cases hwait : s.wait with
    | none => simp [agentStepOf, hlf, hwait, taskHeldOrIdle]
    | some timeout =>
      rw [agentStepOf_task_waiting hlf hwait]
      simp only [taskHeldOrIdle, hwait]
      cases timeout <;> cases s.evInput <;> simp

theorem due_eq_none_iff (c : Bool) (st : AgentStep) : (if c then some st else none) = none ↔ c = false := by
  cases c <;> simp

theorem agentStepOf_isrRx_eq_none_iff : agentStepOf .isrRx s = none ↔ (!s.port.rxPending || s.maskRx) = true := by
  have hbool : ∀ p m : Bool, (p && !m) = false ↔ (!p || m) = true := by decide
  exact (due_eq_none_iff _ _).trans (hbool _ _)

theorem agentStepOf_isrTx_eq_none_iff :
    agentStepOf .isrTx s = none ↔ (ringEmpty s.tx || !s.port.txReady || s.maskTx) = true := by
  have hbool : ∀ e p m : Bool, (p && !e && !m) = false ↔ (e || !p || m) = true := by decide
  exact (due_eq_none_iff _ _).trans (hbool _ _ _)

theorem agentStepOf_isrRow_eq_none_iff :
    agentStepOf .isrRow s = none ↔ (!(s.scan.irqEn && s.scan.irqPending)) = true :=
  (due_eq_none_iff _ _).trans (Bool.not_eq_true' _).to_iff.symm

/-- A polling scanner in range always has a step: its column, or the end of the pass. -/
theorem agentStepOf_scan_eq_none_iff (hcol : s.scan.col ≤ s.cfg.ncol) :
    agentStepOf .scan s = none ↔ (s.scan.state == .waitingForInterrupt && !s.evKbwake) = true := by
  cases hstate : s.scan.state with
  | waitingForInterrupt => cases hev : s.evKbwake <;> simp [agentStepOf, hstate, hev]
  | polling =>
    rcases Nat.lt_or_eq_of_le hcol with hlt | heq
    · simp [agentStepOf_scan_col hstate hlt]
    · simp [agentStepOf_scan_end hstate heq]

theorem forall_agent {p : Agent → Prop} :
    (∀ a, p a) ↔ p .task ∧ p .isrRx ∧ p .isrTx ∧ p .isrRow ∧ p .scan ∧ p .host ∧ p .env ∧ p .harness := by
  refine ⟨fun h => ⟨h _, h _, h _, h _, h _, h _, h _, h _⟩, fun ⟨h1, h2, h3, h4, h5, h6, h7, h8⟩ a => ?_⟩
  cases a <;> assumption

end

/-- Settles O60: clause by clause, `runOver` asks that one agent has no step, and three agents never have one. -/
theorem runIsOverWhenNothingIsEnabled : Obligations.RunIsOverWhenNothingIsEnabled := by
  intro s hscan hf
  have hcol := (scannerOk_iff.1 hscan).col
  rw [forall_agent, agentStepOf_task_eq_none_iff, agentStepOf_isrRx_eq_none_iff, agentStepOf_isrTx_eq_none_iff,
    agentStepOf_isrRow_eq_none_iff, agentStepOf_scan_eq_none_iff hcol]
  simp only [runOver, hf, Option.isNone_none, Bool.true_and, Bool.and_eq_true, Bool.not_eq_true', List.isEmpty_iff]
  exact ⟨fun ⟨⟨⟨⟨⟨htask, hrx⟩, htx⟩, hrow⟩, hscan⟩, hinputs⟩ =>
      ⟨hinputs, htask, hrx, htx, hrow, hscan, rfl, rfl, rfl⟩,
    fun ⟨hinputs, htask, hrx, htx, hrow, hscan, _⟩ => ⟨⟨⟨⟨⟨htask, hrx⟩, htx⟩, hrow⟩, hscan⟩, hinputs⟩⟩

end Sys2Proof.Machine
end

section
/-! The ring engine's other transactions (40_ring_engine.md R152 to R181): pops, index and slot accesses with their check
order, the queue seen by slots, PUTC, and the two interrupt engines of the rings. -/

namespace Sys2Proof.Machine

/-! ## Reads of a slot (10_state.md R32, log 9) -/

/-- A slot read answers a byte and leaves a count of draws: the listed byte and none drawn, or any byte and one drawn. -/
theorem slotRead_answers (r : RingId) (i : Nat) (s : State) :
    (∀ x, memFind i (s.ring r).data = some x → (slotRead r i s).1 = x ∧ (slotRead r i s).2.draws = s.draws) ∧
      (memFind i (s.ring r).data = none → (slotRead r i s).2.draws = s.draws + 1) := by
  obtain ⟨b, hb, h⟩ | ⟨hnone, h⟩ := slotRead_cases r i s
  · rw [h, hb]
    exact ⟨fun x hx => ⟨Option.some.inj hx, rfl⟩, nofun⟩
  · rw [h, hnone]
    exact ⟨nofun, fun _ => rfl⟩

/-- Settles O15: in bounds a slot read answers the slot, and no owner is asked for. -/
theorem slotReadsAnswerTheSlot : Obligations.SlotReadsAnswerTheSlot := by
  have hread : ∀ (r : RingId) (i : Field16) (w : Word) (s : State), i.toNat < s.cap r →
      ∃ (b : Byte) (d : Nat), rdSlotTransaction r i w s = .next { s with ret := some (.byte b), draws := d } ∧
        (∀ x, memFind i.toNat (s.ring r).data = some x → b = x ∧ d = s.draws) ∧
        (memFind i.toNat (s.ring r).data = none → d = s.draws + 1) := by
    intro r i w s hi
    obtain ⟨hle, -⟩ | ⟨-, h⟩ := rdSlotTransaction_cases r i w s
    · omega
    · exact ⟨_, _, h, slotRead_answers r i.toNat s⟩
  exact fun s i => ⟨hread .tx i _ s, hread .rx i _ s⟩

/-! ## Pops -/

section
variable {r : RingId} {w : Word} {s : State}

/-- `ring_pop` of a ring that holds a byte: the byte of the slot at `tail`, and that slot released. -/
theorem ringPop_held (h : ringEmpty (s.ring r) = false) :
    ringPop r s = (some (slotRead r (s.ring r).tail s).1,
      { s.setRing r ((s.ring r).popped (s.cap r)) with draws := (slotRead r (s.ring r).tail s).2.draws }) := by
  cases r with
  | tx => exact ringPop_some_tx h
  | rx => exact ringPop_some_rx h

theorem ringEmpty_eq_false_iff {x : Ring} : ringEmpty x = false ↔ x.head ≠ x.tail := beq_eq_false_iff_ne

theorem popTransaction_empty (howner : breaksOwnership (r == .tx) r s = false) (h : (s.ring r).head = (s.ring r).tail) :
    popTransaction r w s = .next (returns (.popped none) s) := by
  rw [popTransaction, howner, ringPop_empty (ringEmpty_iff.2 h)]
  rfl

/-- A pop that answers: the byte and the count of draws are those of the slot read. -/
theorem popTransaction_held (howner : breaksOwnership (r == .tx) r s = false) (h : (s.ring r).head ≠ (s.ring r).tail) :
    ∃ (b : Byte) (d : Nat),
      popTransaction r w s = .next { s.setRing r ((s.ring r).popped (s.cap r)) with
        ret := some (.popped (some b)), draws := d } ∧
      (∀ x, memFind (s.ring r).tail (s.ring r).data = some x → b = x ∧ d = s.draws) ∧
      (memFind (s.ring r).tail (s.ring r).data = none → d = s.draws + 1) := by
  refine ⟨_, _, ?_, slotRead_answers r (s.ring r).tail s⟩
  rw [popTransaction, howner, ringPop_held (ringEmpty_eq_false_iff.2 h)]
  rfl

/-- The tail of RX is the task side's own (40_ring_engine.md R171), masked or not. -/
theorem breaksOwnership_tail_rx (s : State) : breaksOwnership (RingId.rx == .tx) .rx s = false := rfl

end

/-- Settles O11: POP RX needs no mask and POP TX runs under its own, so each is the pop of its ring. -/
theorem popTakesTheOldest : Obligations.PopTakesTheOldest := by
  refine fun s => ⟨?rxEmpty, ?rxHeld, fun hmask => ?txEmpty, fun hmask => ?txHeld⟩
  case rxEmpty => exact popTransaction_empty (r := .rx) (w := encode .popRx) (breaksOwnership_tail_rx s)
  case rxHeld => exact popTransaction_held (r := .rx) (w := encode .popRx) (breaksOwnership_tail_rx s)
  case txEmpty => exact popTransaction_empty (r := .tx) (w := encode .popTx) (breaksOwnership_masked _ hmask)
  case txHeld => exact popTransaction_held (r := .tx) (w := encode .popTx) (breaksOwnership_masked _ hmask)

/-! ## Writes of an index or a slot, in the check order of 60_exceptions.md R407 -/

section
variable {r : RingId} {i : Field16} {b : Byte} {w : Word} {s : State}

theorem breaksOwnership_eq_false_iff {isrOwned : Bool} :
    breaksOwnership isrOwned r s = false ↔ s.mask r = true ∨ isrOwned = false := by
  rw [breaksOwnership]
  cases isrOwned <;> cases s.mask r <;> decide

theorem breaksOwnership_unmasked {isrOwned : Bool} (howned : isrOwned = true) (hmask : s.mask r = false) :
    breaksOwnership isrOwned r s = true := by
  rw [breaksOwnership, howned, hmask]
  rfl

theorem wrHeadTransaction_writes (hi : i.toNat < s.cap r) (howner : breaksOwnership (r == .rx) r s = false) :
    wrHeadTransaction r i w s = .next (returns .unit (setHead r i.toNat s)) := by
  rw [wrHeadTransaction, indexOperand, if_neg (Nat.not_le.2 hi), howner]
  rfl

theorem wrTailTransaction_writes (hi : i.toNat < s.cap r) (howner : breaksOwnership (r == .tx) r s = false) :
    wrTailTransaction r i w s = .next (returns .unit (setTail r i.toNat s)) := by
  rw [wrTailTransaction, indexOperand, if_neg (Nat.not_le.2 hi), howner]
  rfl

theorem wrSlotTransaction_writes (hi : i.toNat < s.cap r)
    (howner : s.mask r = true ∨ isrOwnedSlot r i.toNat s = false) :
    wrSlotTransaction r i b w s = .next (returns .unit (slotWrite r i.toNat b s)) := by
  rw [wrSlotTransaction, indexOperand, if_neg (Nat.not_le.2 hi), breaksOwnership_eq_false_iff.2 howner]
  rfl

theorem wrHeadTransaction_breach (hi : i.toNat < s.cap r) (howner : breaksOwnership (r == .rx) r s = true) :
    wrHeadTransaction r i w s = .next (raiseFault .ownership w s) := by
  rw [wrHeadTransaction, indexOperand, if_neg (Nat.not_le.2 hi), howner]
  rfl

theorem wrTailTransaction_breach (hi : i.toNat < s.cap r) (howner : breaksOwnership (r == .tx) r s = true) :
    wrTailTransaction r i w s = .next (raiseFault .ownership w s) := by
  rw [wrTailTransaction, indexOperand, if_neg (Nat.not_le.2 hi), howner]
  rfl

theorem wrSlotTransaction_breach (hi : i.toNat < s.cap r) (howned : isrOwnedSlot r i.toNat s = true)
    (hmask : s.mask r = false) : wrSlotTransaction r i b w s = .next (raiseFault .ownership w s) := by
  rw [wrSlotTransaction, indexOperand, if_neg (Nat.not_le.2 hi), breaksOwnership_unmasked howned hmask]
  rfl

end

/-- Settles O14: in bounds and with the owner's leave each writes its index. -/
theorem indexWritesTakeEffect : Obligations.IndexWritesTakeEffect := by
  refine fun s i => ⟨fun hi => ?headTx, fun hi hmask => ?tailTx, fun hi hmask => ?headRx, fun hi => ?tailRx⟩
  case headTx => exact wrHeadTransaction_writes (r := .tx) hi (breaksOwnership_head_tx s)
  case tailTx => exact wrTailTransaction_writes (r := .tx) hi (breaksOwnership_masked _ hmask)
  case headRx => exact wrHeadTransaction_writes (r := .rx) hi (breaksOwnership_masked _ hmask)
  case tailRx => exact wrTailTransaction_writes (r := .rx) hi (breaksOwnership_tail_rx s)

/-- Settles O16: the new storage is the slot's insertion, whose reads are those of the statement; a slot of RX is the
ISR side's where it is not occupied. -/
theorem slotWritesStoreOneByte : Obligations.SlotWritesStoreOneByte := by
  refine fun s i b => ⟨fun hi howner => ⟨memInsert i.toNat b s.tx.data, ?tx, fun j => memFind_memInsert i.toNat j b _⟩,
    fun hi howner => ⟨memInsert i.toNat b s.rx.data, ?rx, fun j => memFind_memInsert i.toNat j b _⟩⟩
  case tx => exact wrSlotTransaction_writes (r := .tx) hi howner
  case rx => exact wrSlotTransaction_writes (r := .rx) hi (howner.imp_right (congrArg (!·)))

/-- Settles O17: the bound is each transaction's first check. -/
theorem indexBeyondCapacityFaults : Obligations.IndexBeyondCapacityFaults := fun _ i _ _ h hle =>
  match i, h with
  | .wrHeadTx _, rfl => if_pos hle
  | .wrTailTx _, rfl => if_pos hle
  | .rdSlotTx _, rfl => if_pos hle
  | .wrSlotTx _ _, rfl => if_pos hle
  | .wrHeadRx _, rfl => if_pos hle
  | .wrTailRx _, rfl => if_pos hle
  | .rdSlotRx _, rfl => if_pos hle
  | .wrSlotRx _ _, rfl => if_pos hle

/-- Settles O18: in bounds the owner is checked next, and each of these writes what the ISR side owns. -/
theorem ownershipBreachFaults : Obligations.OwnershipBreachFaults := by
  refine fun s b x => ⟨fun hmask => ?pushRx, fun hmask => ?popTx, fun hmask hx => ?wrHeadRx, fun hmask hx => ?wrTailTx,
    fun hmask hx hocc => ?wrSlotTx, fun hmask hx hfree => ?wrSlotRx⟩
  case pushRx => exact if_pos (breaksOwnership_unmasked (r := .rx) rfl hmask)
  case popTx => exact if_pos (breaksOwnership_unmasked (r := .tx) rfl hmask)
  case wrHeadRx => exact wrHeadTransaction_breach (r := .rx) hx (breaksOwnership_unmasked rfl hmask)
  case wrTailTx => exact wrTailTransaction_breach (r := .tx) hx (breaksOwnership_unmasked rfl hmask)
  case wrSlotTx => exact wrSlotTransaction_breach (r := .tx) hx hocc hmask
  case wrSlotRx => exact wrSlotTransaction_breach (r := .rx) hx (congrArg (!·) hfree) hmask

/-! ## The occupied slots (R171) -/

section
variable {cap : Nat} {r : Ring}

/-- The slot `i` is the one at its distance from `tail`. -/
theorem slotIndex_distance {tail i : Nat} (htail : tail < cap) (hi : i < cap) :
    (tail + (i + cap - tail) % cap) % cap = i := by
  have hdist : tail + (i + cap - tail) = i + cap := by omega
  rw [Nat.add_mod_mod, hdist, Nat.add_mod_right, Nat.mod_eq_of_lt hi]

/-- The distance of the `k`-th slot after `tail` is `k`. -/
theorem distance_slotIndex {tail k : Nat} (htail : tail < cap) (hk : k < cap) :
    ((tail + k) % cap + cap - tail) % cap = k := by
  rw [slotIndex_eq_ite htail hk]
  split
  · have hdist : tail + k + cap - tail = k + cap := by omega
    rw [hdist, Nat.add_mod_right, Nat.mod_eq_of_lt hk]
  · have hdist : tail + k - cap + cap - tail = k := by omega
    rw [hdist, Nat.mod_eq_of_lt hk]

theorem ringOccupied_iff {i : Nat} : ringOccupied cap r i = true ↔ (i + cap - r.tail) % cap < ringCount cap r :=
  decide_eq_true_iff

end

/-- Settles O19: a slot is occupied when its distance from `tail` is below the count, and `head` is at the count. -/
theorem occupiedSlotsAreTheQueue : Obligations.OccupiedSlotsAreTheQueue := by
  refine fun cap r hhead htail => ⟨fun i hi => ?occupied, decide_eq_false (Nat.lt_irrefl _)⟩
  have hsum := ringSpace_add_ringCount hhead htail
  rw [ringOccupied_iff]
  constructor
  · exact fun hocc => ⟨_, hocc, slotIndex_distance htail hi⟩
  · rintro ⟨k, hk, rfl⟩
    rwa [distance_slotIndex htail (by omega)]

/-! ## PUTC (R175) -/

section
variable {s : State} {b : Byte}

theorem ringPush_tx_room (h : nextIndex s.cfg.capTx s.tx.head ≠ s.tx.tail) :
    ringPush .tx b s = (true, { s with tx := s.tx.pushed s.cfg.capTx b }) :=
  ringPush_room (r := .tx) (ringFull_eq_false_iff.2 h)

theorem ringPush_tx_full (h : nextIndex s.cfg.capTx s.tx.head = s.tx.tail) : ringPush .tx b s = (false, s) :=
  ringPush_full (r := .tx) (ringFull_iff.2 h)

/-- PUTC of any byte but a line feed in CONSOLE mode is the push. -/
theorem exec_putc_push (h : s.front.mode = .raw ∨ b ≠ lineFeed) :
    exec (.putc b) s = .next (returns (.bool (ringPush .tx b s).1) (ringPush .tx b s).2) := by
  refine if_neg fun ⟨hconsole, hb⟩ => ?_
  obtain hraw | hne := h
  · cases hraw.symm.trans hconsole
  · exact hne hb

/-- PUTC of a line feed in CONSOLE mode is its first step. -/
theorem exec_putc_lineFeed (h : s.front.mode = .console) : exec (.putc 0x0A) s = .next (putcLineFeed s) :=
  if_pos ⟨h, rfl⟩

theorem putcLineFeed_room (h : nextIndex s.cfg.capTx s.tx.head ≠ s.tx.tail) :
    putcLineFeed s = { s with
      tx := s.tx.pushed s.cfg.capTx carriageReturn, front := { s.front with lfPending := true, ok := true }
      ret := none } := by
  rw [putcLineFeed, ringPush_tx_room h]
  rfl

theorem putcLineFeed_full (h : nextIndex s.cfg.capTx s.tx.head = s.tx.tail) :
    putcLineFeed s = { s with front := { s.front with lfPending := true, ok := false }, ret := none } := by
  rw [putcLineFeed, ringPush_tx_full h]
  rfl

theorem taskLf_room (h : nextIndex s.cfg.capTx s.tx.head ≠ s.tx.tail) :
    taskLf s = { s with
      tx := s.tx.pushed s.cfg.capTx lineFeed, front := { s.front with lfPending := false }
      ret := some (.bool s.front.ok) } := by
  rw [taskLf, ringPush_tx_room h, Bool.and_true]
  rfl

theorem taskLf_full (h : nextIndex s.cfg.capTx s.tx.head = s.tx.tail) :
    taskLf s = { s with front := { s.front with lfPending := false }, ret := some (.bool false) } := by
  rw [taskLf, ringPush_tx_full h, Bool.and_false]
  rfl

end

/-- Settles O23: outside the translated line feed PUTC is one push of TX. -/
theorem putcPushesOneByte : Obligations.PutcPushesOneByte := by
  refine fun s b h => ⟨fun hroom => ?room, fun hfull => ?full⟩
  case room =>
    rw [exec_putc_push h, ringPush_tx_room hroom]
    rfl
  case full =>
    rw [exec_putc_push h, ringPush_tx_full hfull]
    rfl

/-- Settles O24: the two steps are the pushes of the carriage return and of the line feed, each with room or without. -/
theorem putcOfLineFeedTakesTwoSteps : Obligations.PutcOfLineFeedTakesTwoSteps := by
  refine fun s => ⟨fun hconsole => ⟨fun hroom => ?crRoom, fun hfull => ?crFull⟩,
    fun hpending => ⟨if_pos hpending, taskLf_room, taskLf_full⟩⟩
  case crRoom => rw [exec_putc_lineFeed hconsole, putcLineFeed_room hroom]; rfl
  case crFull => rw [exec_putc_lineFeed hconsole, putcLineFeed_full hfull]

/-- A ring with space is not full. -/
theorem nextIndex_ne_tail_of_space {cap : Nat} {r : Ring} (hhead : r.head < cap) (htail : r.tail < cap)
    (hspace : 0 < ringSpace cap r) : nextIndex cap r.head ≠ r.tail := fun h => by
  rw [← ringSpace_eq_zero_iff hhead htail] at h
  omega

/-- Settles O25: the first push leaves one of the two free slots, so the second stores as well, and each appends its
byte. -/
theorem lineFeedWithRoomIsNotSplit : Obligations.LineFeedWithRoomIsNotSplit := by
  intro s t _ hbounds hconsole hspace h
  obtain ⟨hhead, htail⟩ := ringInBounds_iff.1 (ringsInBounds_iff.1 hbounds).1
  have hroom := nextIndex_ne_tail_of_space hhead htail (by omega)
  rw [exec_putc_lineFeed hconsole, putcLineFeed_room hroom] at h
  cases h
  have hfree := ringFull_eq_false_iff.2 hroom
  have hhead' : (s.tx.pushed s.cfg.capTx carriageReturn).head < s.cfg.capTx := nextIndex_lt hhead
  have hroom' : nextIndex s.cfg.capTx (s.tx.pushed s.cfg.capTx carriageReturn).head ≠ s.tx.tail := by
    refine nextIndex_ne_tail_of_space (r := s.tx.pushed s.cfg.capTx carriageReturn) hhead' htail ?_
    have hbefore := ringSpace_add_ringCount hhead htail
    have hafter := ringSpace_add_ringCount (r := s.tx.pushed s.cfg.capTx carriageReturn) hhead' htail
    have hcount := ringCount_pushed carriageReturn hhead htail hfree
    omega
  rw [runAgentStep, taskLf_room hroom']
  refine ⟨?_, rfl⟩
  rw [ringContents_pushed lineFeed hhead' htail (ringFull_eq_false_iff.2 hroom'),
    ringContents_pushed carriageReturn hhead htail hfree, List.append_assoc]
  rfl

end Sys2Proof.Machine
end

section
/-! Waits, transport inputs, interrupt engines and the key matrix, one operation at a time (45_control.md R372 to R382,
40_ring_engine.md R180, R181, 41_matrix_scanner.md R202 to R206). -/

namespace Sys2Proof.Machine

/-! ## WAIT_INPUT (R372) -/

/-- Settles O27: the event is asked for first, whatever the timeout. -/
theorem waitWithEventCompletes : Obligations.WaitWithEventCompletes := fun _ hev =>
  ⟨congrArg Host.Outcome.next (if_pos hev), congrArg Host.Outcome.next (if_pos hev)⟩

/-- Settles O28: with no event a wait has the two outcomes of `waitOn_cases` that are left. -/
theorem waitWithoutEventHolds : Obligations.WaitWithoutEventHolds := by
  refine fun s hev => ⟨?untimed, ?timed⟩
  case untimed =>
    obtain ⟨hposted, -⟩ | ⟨-, -, h⟩ | ⟨-, htimeout, -⟩ := waitOn_cases false s
    · cases hev.symm.trans hposted
    · exact congrArg Host.Outcome.next h
    · cases htimeout
  case timed =>
    obtain ⟨hposted, -⟩ | ⟨-, hno, -⟩ | ⟨-, -, h | h⟩ := waitOn_cases true s
    · cases hev.symm.trans hposted
    · cases hno
    · exact .inl (congrArg Host.Outcome.next h)
    · exact .inr (congrArg Host.Outcome.next h)

/-! ## Transport inputs (R380 to R382) -/

/-- The word of RX_ARRIVE is its opcode over its byte. -/
theorem mkWord_byte (u o : BitVec 4) (b : Byte) : mkWord u o 0 b = mkWord u o 0 0 ||| b.setWidth 32 := by
  simp [mkWord]

/-- Settles O30: the request pending or not is the one branch, and on an overrun the free choice takes one of the two
bytes. -/
theorem transportInputsAreLatched : Obligations.TransportInputsAreLatched := by
  refine ⟨⟨by decide, mkWord_byte 5 0⟩, fun s b => ⟨fun hidle => ?latched, fun hpending => ?overrun, rfl⟩⟩
  case latched => exact if_neg (by rw [hidle]; decide)
  case overrun =>
    refine ⟨if Config.freeBit s.draws then s.port.rxByte else b, ?_, if_pos hpending⟩
    split
    · exact .inl rfl
    · exact .inr rfl

/-! ## The interrupt engines of the rings (40_ring_engine.md R180, R181) -/

section
variable {s : State}

theorem due_eq_some_iff (c : Bool) (st : AgentStep) : (if c then some st else none) = some st ↔ c = true := by
  cases c <;> simp

theorem isrRx_room (h : nextIndex s.cfg.capRx s.rx.head ≠ s.rx.tail) :
    isrRx s = { s with
      rx := s.rx.pushed s.cfg.capRx s.port.rxByte, port := { s.port with rxPending := false }, evInput := true } := by
  rw [isrRx, ringPush_room (r := .rx) (ringFull_eq_false_iff.2 h)]
  rfl

theorem isrRx_full (h : nextIndex s.cfg.capRx s.rx.head = s.rx.tail) :
    isrRx s = { s with
      port := { s.port with rxPending := false }, evInput := true
      out := { s.out with rxDropped := s.out.rxDropped + 1 } } := by
  rw [isrRx, ringPush_full (r := .rx) (ringFull_iff.2 h)]
  rfl

theorem isrTx_held (h : s.tx.head ≠ s.tx.tail) :
    isrTx s = { s with
      tx := s.tx.popped s.cfg.capTx, port := { s.port with txReady := false }
      out := { s.out with wire := s.out.wire ++ [(slotRead .tx s.tx.tail s).1] }
      draws := (slotRead .tx s.tx.tail s).2.draws } := by
  rw [isrTx, ringPop_held (r := .tx) (ringEmpty_eq_false_iff.2 h)]
  rfl

end

/-- Settles O31: the engine is the push of the pending byte into RX, and counts a failed one. -/
theorem receiveInterruptServesOneByte : Obligations.ReceiveInterruptServesOneByte := by
  refine fun s => ⟨?enabled, isrRx_room, isrRx_full⟩
  refine (due_eq_some_iff _ _).trans ?_
  rw [Bool.and_eq_true, Bool.not_eq_true', srcRxPending]

/-- Settles O32: the engine is the pop of TX onto the wire. -/
theorem transmitInterruptSendsTheOldest : Obligations.TransmitInterruptSendsTheOldest := by
  refine fun s => ⟨?enabled, fun hheld => ⟨_, _, isrTx_held hheld, slotRead_answers .tx s.tx.tail s⟩⟩
  refine (due_eq_some_iff _ _).trans ?_
  rw [Bool.and_eq_true, Bool.not_eq_true', srcTxPending, Bool.and_eq_true, Bool.not_eq_true', ringEmpty_eq_false_iff,
    and_assoc, and_comm (a := s.tx.head ≠ s.tx.tail)]

/-! ## The row interrupt and the wake event (41_matrix_scanner.md R204 to R206) -/

/-- Settles O51: each engine's condition is the one its step asks for, and each step is its definition. -/
theorem rowInterruptWakesTheScanner : Obligations.RowInterruptWakesTheScanner := by
  refine fun s => ⟨?row, rfl, fun hwait => ?wake, rfl⟩
  case row => exact (due_eq_some_iff _ _).trans Bool.and_eq_true_iff
  case wake =>
    have hdue : agentStepOf .scan s = if s.evKbwake then some .scanWake else none := by simp [agentStepOf, hwait]
    rw [hdue]
    exact ⟨due_eq_some_iff _ _, (due_eq_none_iff _ _).2⟩

/-! ## KEY_SET (R202) -/

/-- Setting one bit of a byte reads back at that bit and leaves the others. -/
theorem getLsbD_withBit (x : Byte) (row r : Fin 8) (v : Bool) :
    (withBit x row v).getLsbD r.val = if r = row then v else x.getLsbD r.val := by
  have hbit : (1#8 <<< row.val).getLsbD r.val = decide (r = row) := by
    change (BitVec.twoPow 8 row.val).getLsbD r.val = _
    rw [BitVec.getLsbD_twoPow, decide_eq_true row.isLt, Bool.true_and, decide_eq_decide, Fin.ext_iff]
    exact eq_comm
  cases v with
  | true =>
    rw [withBit, if_pos rfl, BitVec.getLsbD_or, hbit]
    by_cases h : r = row <;> simp [h]
  | false =>
    rw [withBit, if_neg Bool.false_ne_true, BitVec.getLsbD_and, BitVec.getLsbD_not, hbit, decide_eq_true r.isLt]
    by_cases h : r = row <;> simp [h]

theorem getLsbD_setKey (row : Fin 8) (col : Nat) (v : Bool) (s : State) (j : Nat) (r : Fin 8) :
    (memRead j (setKey row col v s).keys).getLsbD r.val =
      if j = col ∧ r = row then v else (memRead j s.keys).getLsbD r.val := by
  rw [setKey, memRead_memWrite]
  by_cases hj : j = col
  · rw [if_pos hj, getLsbD_withBit, hj, closedKeys]
    simp
  · rw [if_neg hj, if_neg fun h => hj h.1]

/-- The request after the latch: it stays, or is set where the interrupt is armed and the rows differ (R204). -/
theorem latchRowChange_irqPending (s : State) :
    (latchRowChange s).scan.irqPending = true ↔
      s.scan.irqPending = true ∨ (s.scan.irqEn = true ∧ sampleRows s ≠ s.scan.rowsAtArm) := by
  obtain ⟨hlatch, h⟩ | ⟨hno, h⟩ := latchRowChange_cases s
  · rw [h]
    exact iff_of_true rfl (.inr hlatch)
  · rw [h]
    exact (or_iff_left hno).symm

/-- Settles O48: the matrix is `setKey`'s and the request is the latch's, which samples the new matrix. -/
theorem keySetMovesOneSwitch : Obligations.KeySetMovesOneSwitch := by
  intro s row col v hcol
  refine ⟨(setKey row col.toNat v s).keys, (latchRowChange (setKey row col.toNat v s)).scan.irqPending, ?state,
    getLsbD_setKey row col.toNat v s, latchRowChange_irqPending _⟩
  have hstate := congrArg (returns .unit) (latchRowChange_setKey_frame row col.toNat v s)
  exact (if_pos (decide_eq_true hcol)).trans (congrArg Host.Outcome.next hstate)

end Sys2Proof.Machine
end
